-- ==== Sys2Proof/Word.lean ====
section
/-!
DEFINITION. The byte, and the few facts about byte sequences that nothing else can mend (spec rule R7).

A byte sequence of the spec is a `List Byte`, index 0 first. A register of fixed size is a `Vector Byte n`. Lengths and
header words are natural numbers: the spec's integers are unbounded unless a rule gives a width (R7, R9).
-/

namespace Sys2Proof

/-- A byte, 8 bits, a value in 0..255 (R7). -/
abbrev Byte := BitVec 8

/-- `zeros(n)` of R7. -/
def zeros (n : Nat) : List Byte := List.replicate n 0

/-- The key schedule type `KS` of R28 and R68. The spec keeps it opaque; here a value of it is written as a byte
sequence. DESIGN CHOICE, log entry 1. -/
abbrev KS := List Byte

/-- `KS_ZERO`, the "zeroed" key schedule (R28, R68). DESIGN CHOICE, log entry 1. -/
def ksZero : KS := []

/-- A byte sequence as a vector of its own length. -/
def vecOf (l : List Byte) : Vector Byte l.length := ⟨⟨l⟩, rfl⟩

end Sys2Proof
end

