-- ==== Sys2Proof/Syntax.lean ====
section
/-!
DEFINITION. The enumerated operands and the six commands of the engine (spec file 30_encoding.md, rules R93 to R105).

One constructor of `Instr` for each row of spec/opcode_table.json. An optional operand (`iv?`, `tweak?`,
`roundsOverride?`) is an `Option`: its presence bit is whether it is there, its length field the length of the sequence
(R99). Log entry 11.
-/

namespace Sys2Proof

/-- `DIR` (R94). -/
inductive Dir where
  | encrypt
  | decrypt
  deriving DecidableEq, Repr

/-- `PAD` (R95). -/
inductive Padding where
  | none
  | pkcs7
  deriving DecidableEq, Repr

/-- The seven algorithms, codes 0 to 6 in this order (R96). -/
inductive Alg where
  | aes
  | des
  | tripleDes
  | cast
  | rc4
  | rc2
  | blowfish
  deriving DecidableEq, Repr

/-- The field `ALG` of a CREATE: an algorithm, or the reserved code 7 (R96, R107). -/
inductive AlgField where
  | known (a : Alg)
  | reserved
  deriving DecidableEq, Repr

/-- The eight modes, codes 0 to 7 in this order (R97). -/
inductive Mode where
  | ecb
  | cbc
  | cfb
  | cfb8
  | ctr
  | ofb
  | xts
  | rc4Stream
  deriving DecidableEq, Repr

/-- `CTR_BE`, the byte order of the CTR counter (R98). -/
inductive Endian where
  | little
  | big
  deriving DecidableEq, Repr

/-- The operands of CREATE (R100, R132). -/
structure CreateArgs where
  /-- `DIR`. -/
  dir : Dir
  /-- `PAD`. -/
  pad : Padding
  /-- `ALG`. -/
  alg : AlgField
  /-- `MODE`. -/
  mode : Mode
  /-- `CTR_BE`, OTP's `modeOptions`. -/
  ctrBE : Endian
  /-- `ROUNDS`, present when `RDP = 1`. -/
  rounds : Option (BitVec 32)
  /-- The key; its length is `KEYLEN`. -/
  key : List Byte
  /-- The IV, present when `IVP = 1`; its length is `IVLEN`. -/
  iv : Option (List Byte)
  /-- The tweak, present when `TWP = 1`; its length is `TWLEN`. -/
  tweak : Option (List Byte)
  deriving DecidableEq, Repr

/-- The commands (R93). -/
inductive Instr where
  /-- `CREATE`, format C (R100). -/
  | create (args : CreateArgs)
  /-- `UPDATE`, format U (R101); the length of the input is `LEN`. -/
  | update (input : List Byte)
  /-- `FINAL`, format F (R102). -/
  | final
  /-- `RESET`, format R (R103); the IV is present when `IVP = 1`, its length is `IVLEN`. -/
  | reset (iv : Option (List Byte))
  /-- `GETOUTLEN`, format Q (R104): `ADDLEN` and `FIN`. -/
  | getOutLen (addLen : BitVec 32) (fin : Bool)
  /-- `RELEASE`, format X (R105). -/
  | release
  deriving DecidableEq, Repr

end Sys2Proof
end

