-- ==== Sys2Proof/WellFormed.lean ====
section
/-!
DEFINITION. Which terms of `Instr` have an encoding: every length fits its field (rule R92).
-/

namespace Sys2Proof

/-- `KEYLEN` is a 16-bit field (R92). -/
def keyLenFits (key : List Byte) : Bool := decide (key.length < 2 ^ 16)

/-- `IVLEN` and `TWLEN` are 8-bit fields (R92). -/
def optLenFits : Option (List Byte) → Bool
  | none => true
  | some v => decide (v.length < 2 ^ 8)

/-- `LEN` is a 32-bit field (R92). -/
def inputLenFits (input : List Byte) : Bool := decide (input.length < 2 ^ 32)

/-- The instruction has an encoding (R100 to R105). -/
def Instr.wf : Instr → Bool
  | .create a => keyLenFits a.key && optLenFits a.iv && optLenFits a.tweak
  | .update input => inputLenFits input
  | .final => true
  | .reset iv => optLenFits iv
  | .getOutLen _ _ => true
  | .release => true

/-- `Instr.wf` as a proposition, decidable. -/
abbrev Instr.WellFormed (i : Instr) : Prop := i.wf = true

end Sys2Proof
end

