-- ==== Sys2Proof/Decode.lean ====
section
/-!
DEFINITION. Byte order, bit fields, the decoder and the encoder of command packets (spec file 30_encoding.md, rules R90
to R109, R114; byte order R7, R62), and the bridge to the numbering of spec/opcode_table.json.
-/

namespace Sys2Proof

/-- The `n` bytes of `v`, least significant first (R7; `u32le` is the case `n = 4`). -/
def leBytes : Nat → Nat → List Byte
  | 0, _ => []
  | n + 1, v => BitVec.ofNat 8 v :: leBytes n (v / 256)

/-- The number whose little-endian bytes are given: the sum over `i` of `v[i] * 256^i` (R7, R210). -/
def leNat : List Byte → Nat
  | [] => 0
  | b :: t => b.toNat + 256 * leNat t

/-- `u32le(v)` (R7). -/
def u32le (v : Nat) : List Byte := leBytes 4 v

/-- The bit slice `w[hi:lo]` (R7). -/
def slice (w hi lo : Nat) : Nat := w / 2 ^ lo % 2 ^ (hi + 1 - lo)

/-- `MemRead(CMD + off, n)`: the bytes at offsets `off` to `off + n - 1` of the packet (R8, R60). -/
def cmdRead (pkt : List Byte) (off n : Nat) : List Byte := (pkt.drop off).take n

/-- A command packet, or why it is malformed: the step of R106 that failed first. -/
inductive Decoded where
  /-- The packet decodes to one command. -/
  | instr (i : Instr)
  /-- Step 1: `CLEN < 8`. -/
  | tooShort
  /-- Step 2: `OPC` is 0 or 7 to 15. -/
  | reservedOpcode
  /-- Step 3: a must-be-zero bit of `W0` or `W1` is set. -/
  | mustBeZero
  /-- Step 4: a length is given for an operand whose presence bit is 0. -/
  | presenceMismatch
  /-- Step 5: `CLEN` is not the length the descriptor determines. -/
  | lengthMismatch
  deriving DecidableEq, Repr

/-- The command, if the packet is well-formed. -/
def Decoded.toOption : Decoded → Option Instr
  | .instr i => some i
  | .tooShort => none
  | .reservedOpcode => none
  | .mustBeZero => none
  | .presenceMismatch => none
  | .lengthMismatch => none

/-- R94. -/
def Dir.ofCode (n : Nat) : Dir := if n = 0 then .encrypt else .decrypt

/-- R95. -/
def Padding.ofCode (n : Nat) : Padding := if n = 0 then .none else .pkcs7

/-- R98. -/
def Endian.ofCode (n : Nat) : Endian := if n = 0 then .little else .big

/-- R96; the field has three bits, and 7 is reserved. -/
def AlgField.ofCode : Nat → AlgField
  | 0 => .known .aes
  | 1 => .known .des
  | 2 => .known .tripleDes
  | 3 => .known .cast
  | 4 => .known .rc4
  | 5 => .known .rc2
  | 6 => .known .blowfish
  | _ => .reserved

/-- R97; the field has three bits, and every value is used. -/
def Mode.ofCode : Nat → Mode
  | 0 => .ecb
  | 1 => .cbc
  | 2 => .cfb
  | 3 => .cfb8
  | 4 => .ctr
  | 5 => .ofb
  | 6 => .xts
  | _ => .rc4Stream

/-- An optional sequence: there when its presence bit is 1 (R99). -/
def presentIf (bit : Nat) (v : List Byte) : Option (List Byte) := if bit = 1 then some v else none

/-- Step 4 of R106 for one operand: presence bit 0 implies length 0. -/
def presenceAgrees (bit len : Nat) : Bool := bit == 1 || len == 0

/-- The operands of a CREATE whose descriptor is `w0`, `w1`, taken from the packet at the offsets of R100. -/
def createArgsOf (w0 w1 : Nat) (pkt : List Byte) : CreateArgs :=
  let r := 4 * slice w0 15 15
  let keyLen := slice w1 15 0
  let ivLen := slice w1 23 16
  let twLen := slice w1 31 24
  { dir := Dir.ofCode (slice w0 4 4)
    pad := Padding.ofCode (slice w0 5 5)
    alg := AlgField.ofCode (slice w0 8 6)
    mode := Mode.ofCode (slice w0 11 9)
    ctrBE := Endian.ofCode (slice w0 12 12)
    rounds := if slice w0 15 15 = 1 then some (BitVec.ofNat 32 (leNat (cmdRead pkt 8 4))) else none
    key := cmdRead pkt (8 + r) keyLen
    iv := presentIf (slice w0 13 13) (cmdRead pkt (8 + r + keyLen) ivLen)
    tweak := presentIf (slice w0 14 14) (cmdRead pkt (8 + r + keyLen + ivLen) twLen) }

/-- Steps 3 to 5 of R106 for CREATE (format C, R100). -/
def decodeCreate (w0 w1 : Nat) (pkt : List Byte) : Decoded :=
  if slice w0 31 16 ≠ 0 then .mustBeZero
  else if !(presenceAgrees (slice w0 13 13) (slice w1 23 16) && presenceAgrees (slice w0 14 14) (slice w1 31 24)) then
    .presenceMismatch
  else if pkt.length ≠ 8 + 4 * slice w0 15 15 + slice w1 15 0 + slice w1 23 16 + slice w1 31 24 then .lengthMismatch
  else .instr (.create (createArgsOf w0 w1 pkt))

/-- Steps 3 and 5 of R106 for UPDATE (format U, R101). -/
def decodeUpdate (w0 w1 : Nat) (pkt : List Byte) : Decoded :=
  if slice w0 31 4 ≠ 0 then .mustBeZero
  else if pkt.length ≠ 8 + w1 then .lengthMismatch
  else .instr (.update (cmdRead pkt 8 w1))

/-- Steps 3 and 5 of R106 for FINAL (format F, R102). -/
def decodeFinal (w0 w1 : Nat) (pkt : List Byte) : Decoded :=
  if slice w0 31 4 ≠ 0 ∨ w1 ≠ 0 then .mustBeZero
  else if pkt.length ≠ 8 then .lengthMismatch
  else .instr .final

/-- Steps 3 to 5 of R106 for RESET (format R, R103). -/
def decodeReset (w0 w1 : Nat) (pkt : List Byte) : Decoded :=
  if slice w0 31 14 ≠ 0 ∨ slice w0 12 4 ≠ 0 ∨ slice w1 31 8 ≠ 0 then .mustBeZero
  else if !presenceAgrees (slice w0 13 13) (slice w1 7 0) then .presenceMismatch
  else if pkt.length ≠ 8 + slice w1 7 0 then .lengthMismatch
  else .instr (.reset (presentIf (slice w0 13 13) (cmdRead pkt 8 (slice w1 7 0))))

/-- Steps 3 and 5 of R106 for GETOUTLEN (format Q, R104). -/
def decodeGetOutLen (w0 w1 : Nat) (pkt : List Byte) : Decoded :=
  if slice w0 31 17 ≠ 0 ∨ slice w0 15 4 ≠ 0 then .mustBeZero
  else if pkt.length ≠ 8 then .lengthMismatch
  else .instr (.getOutLen (BitVec.ofNat 32 w1) (slice w0 16 16 == 1))

/-- Steps 3 and 5 of R106 for RELEASE (format X, R105). -/
def decodeRelease (w0 w1 : Nat) (pkt : List Byte) : Decoded :=
  if slice w0 31 4 ≠ 0 ∨ w1 ≠ 0 then .mustBeZero
  else if pkt.length ≠ 8 then .lengthMismatch
  else .instr .release

/-- The decode procedure of R106, total on byte sequences. It reads the packet and nothing else (R109). -/
def decode (pkt : List Byte) : Decoded :=
  if pkt.length < 8 then .tooShort
  else
    let w0 := leNat (cmdRead pkt 0 4)
    let w1 := leNat (cmdRead pkt 4 4)
    match slice w0 3 0 with
    | 1 => decodeCreate w0 w1 pkt
    | 2 => decodeUpdate w0 w1 pkt
    | 3 => decodeFinal w0 w1 pkt
    | 4 => decodeReset w0 w1 pkt
    | 5 => decodeGetOutLen w0 w1 pkt
    | 6 => decodeRelease w0 w1 pkt
    | _ => .reservedOpcode

/-! ### The encoder, from the layouts of R91, R92 and the formats R100 to R105 -/

/-- R94. -/
def Dir.code : Dir → Nat
  | .encrypt => 0
  | .decrypt => 1

/-- R95. -/
def Padding.code : Padding → Nat
  | .none => 0
  | .pkcs7 => 1

/-- R98. -/
def Endian.code : Endian → Nat
  | .little => 0
  | .big => 1

/-- R96. -/
def Alg.code : Alg → Nat
  | .aes => 0
  | .des => 1
  | .tripleDes => 2
  | .cast => 3
  | .rc4 => 4
  | .rc2 => 5
  | .blowfish => 6

/-- R96, with the reserved code 7. -/
def AlgField.code : AlgField → Nat
  | .known a => a.code
  | .reserved => 7

/-- R97. -/
def Mode.code : Mode → Nat
  | .ecb => 0
  | .cbc => 1
  | .cfb => 2
  | .cfb8 => 3
  | .ctr => 4
  | .ofb => 5
  | .xts => 6
  | .rc4Stream => 7

/-- A presence bit (R99). -/
def presenceBit {α : Type} (o : Option α) : Nat := if o.isSome then 1 else 0

/-- The bytes of an optional sequence, none when it is omitted (R99). -/
def optBytes (o : Option (List Byte)) : List Byte := o.getD []

/-- The payload word `ROUNDS`, there when `RDP = 1` (R100). -/
def roundsBytes : Option (BitVec 32) → List Byte
  | none => []
  | some n => u32le n.toNat

/-- `W0` of a command (R91). -/
def Instr.w0 : Instr → Nat
  | .create a => 1 + 2 ^ 4 * a.dir.code + 2 ^ 5 * a.pad.code + 2 ^ 6 * a.alg.code + 2 ^ 9 * a.mode.code
      + 2 ^ 12 * a.ctrBE.code + 2 ^ 13 * presenceBit a.iv + 2 ^ 14 * presenceBit a.tweak + 2 ^ 15 * presenceBit a.rounds
  | .update _ => 2
  | .final => 3
  | .reset iv => 4 + 2 ^ 13 * presenceBit iv
  | .getOutLen _ fin => 5 + 2 ^ 16 * (if fin then 1 else 0)
  | .release => 6

/-- `W1` of a command (R92). -/
def Instr.w1 : Instr → Nat
  | .create a => a.key.length + 2 ^ 16 * (optBytes a.iv).length + 2 ^ 24 * (optBytes a.tweak).length
  | .update input => input.length
  | .final => 0
  | .reset iv => (optBytes iv).length
  | .getOutLen addLen _ => addLen.toNat
  | .release => 0

/-- The payload of a command (R100 to R105). -/
def Instr.payload : Instr → List Byte
  | .create a => roundsBytes a.rounds ++ a.key ++ optBytes a.iv ++ optBytes a.tweak
  | .update input => input
  | .final => []
  | .reset iv => optBytes iv
  | .getOutLen _ _ => []
  | .release => []

/-- The packet of a command (R90). -/
def encode (i : Instr) : List Byte := u32le i.w0 ++ u32le i.w1 ++ i.payload

/-! ### The numbering of spec/opcode_table.json -/

/-- The payload length the descriptor `W0`, `W1` determines (R109). -/
def payloadLen (w0 w1 : Nat) : Nat :=
  match slice w0 3 0 with
  | 1 => 4 * slice w0 15 15 + slice w1 15 0 + slice w1 23 16 + slice w1 31 24
  | 2 => w1
  | 4 => slice w1 7 0
  | _ => 0

/-- The packet whose bits are `w`, bit 0 the least significant bit of its first byte (`D` of R90): the descriptor, and
payload bytes up to the length the descriptor determines, each of them zero above `nbits`. Log entry 12. -/
def tablePacket (nbits w : Nat) : List Byte :=
  let d := w % 2 ^ nbits
  leBytes (max (nbits / 8) (8 + payloadLen (slice d 31 0) (slice d 63 32))) d

/-- The instruction the decoder reads from the table's word (the host's fixed name). -/
def decodeTableWord (nbits w : Nat) : Option Instr := (decode (tablePacket nbits w)).toOption

end Sys2Proof
end

