-- ==== Sys2Proof/Config.lean ====
section
/-!
DEFINITION. What an engine instance fixes and no command changes (rules R6, R39): the algorithm table, the build
parameters, and the functions of the primitive port. The functions the spec leaves to the primitive are opaque
constants: nothing can be proved of their values.
-/

namespace Sys2Proof

/-- One configuration: the whole set of parameters of R6 as one value (R66). It is fixed for an engine instance. -/
structure Config where
  /-- `BlockSize` (R41, R70). -/
  blockSize : Alg → Nat
  /-- `KeyLenOK` (R41, R70). -/
  keyLenOK : Alg → Nat → Bool
  /-- `VarRounds` (R41, R70). -/
  varRounds : Alg → Bool
  /-- `AlgImpl`: this build has the algorithm (R6). -/
  algImpl : Alg → Bool
  /-- `ModeImpl`: this build has the mode (R6). -/
  modeImpl : Mode → Bool
  /-- `Schedule` (R68). -/
  schedule : Alg → List Byte → Option (BitVec 32) → KS
  /-- `EncBlock` and, as its inverse, `DecBlock` (R67): a permutation of the blocks of `n` bytes for each algorithm and
  key schedule. The law of R67 and the lengths it states are in the type. Log entry 4. -/
  cipher : Alg → KS → (n : Nat) → Equiv.Perm (Vector Byte n)
  /-- `StreamStep` (R69). -/
  streamStep : Alg → KS → Byte × KS
  /-- `XtsTweakInit` (R71). -/
  xtsTweakInit : Alg → KS → Vector Byte 16 → Vector Byte 16

/-- What R70 requires of any instantiation of the table: 0 for RC4, 1..`MAXBS` = 16 for the others. -/
structure Config.Legal (c : Config) : Prop where
  rc4_zero : c.blockSize .rc4 = 0
  block_pos : ∀ a, a ≠ .rc4 → 0 < c.blockSize a
  block_le : ∀ a, c.blockSize a ≤ 16

/-- `Schedule` of the engine's primitive (R68): not given by the spec. -/
opaque Config.freeSchedule : Alg → List Byte → Option (BitVec 32) → KS

/-- `EncBlock` of the engine's primitive, with `DecBlock` its inverse (R67): not given by the spec. -/
opaque Config.freeCipher : Alg → KS → (n : Nat) → Equiv.Perm (Vector Byte n)

/-- `StreamStep` of the engine's primitive (R69): not given by the spec. -/
opaque Config.freeStreamStep : Alg → KS → Byte × KS

/-- `XtsTweakInit`, the OPEN parameter of R71 and R221. -/
opaque Config.freeXtsTweakInit : Alg → KS → Vector Byte 16 → Vector Byte 16

end Sys2Proof
end

