-- ==== Sys2Proof/Machine/State.lean ====
section
/-!
DEFINITION. The state of one engine instance (spec file 10_state.md), the reasons a step can stop, and the state after
hardware reset (rule R43).

Every register of R20 is one field. An enumerated register holds a named value; a byte-sequence register has its full
hardware size, and the rules read its first `BS` (or `PLEN`) bytes: the rest is zero (log entry 2). The two ports are
the model's own fields (log entry 6).
-/

namespace Sys2Proof.Machine

/-- `ST` (R21). -/
inductive SessionState where
  /-- No session exists. -/
  | empty
  /-- A session exists and accepts UPDATE and FINAL. -/
  | active
  /-- FINAL has succeeded. -/
  | finalized
  /-- An UPDATE or FINAL issued in `ACTIVE` has failed. -/
  | errored
  deriving DecidableEq, Repr

/-- What the outside world does to the engine, between commands. -/
inductive PortEvent where
  /-- The host delivers one whole command packet (R60). -/
  | packet (bytes : List Byte)
  /-- Hardware reset (R290). Log entry 7. -/
  | hardwareReset
  deriving DecidableEq, Repr

/-- The registers of R20 and the two ports. -/
structure State where
  /-- `ST`, R21. -/
  st : SessionState
  /-- `DIR`, R22. -/
  dir : Dir
  /-- `PAD`, R23. -/
  pad : Padding
  /-- `ALG`, R24. -/
  alg : Alg
  /-- `MODE`, R25. -/
  mode : Mode
  /-- `CTR_BE`, R26. -/
  ctrBE : Endian
  /-- `BS`, R27. -/
  bs : BitVec 5
  /-- `KEYSCHED`, R28. -/
  keySched : KS
  /-- `IVT0`, R29. -/
  ivt0 : Vector Byte 16
  /-- `IVT`, R30. -/
  ivt : Vector Byte 16
  /-- `KSTR`, R31. -/
  kstr : Vector Byte 16
  /-- `KPOS`, R32. -/
  kpos : BitVec 4
  /-- `SSTATE`, R33. -/
  sstate : KS
  /-- `PEND`, R34. -/
  pend : Vector Byte 31
  /-- `PLEN`, R34. -/
  plen : BitVec 5
  /-- `TOTAL`, R35. -/
  total : BitVec 64
  /-- The command port: what the host does, in arrival order (R60, R72). The model's own field. -/
  cmdPort : List PortEvent
  /-- The response port: the packets sent since hardware reset, in order (R61, R72). The model's own field. -/
  rspPort : List (List Byte)
  deriving DecidableEq, Repr

/-- Why the machine stops. -/
inductive Fault where
  /-- The registers break an invariant of R38, which no run from reset does. Raised by an admitted UPDATE, FINAL or
  GETOUTLEN on such registers, where R276 defines no behaviour (OTP: an abort "on internal invariant violation"). Safe:
  the model stops where the spec gives nothing. Log entry 8. -/
  | invariantViolation
  deriving DecidableEq, Repr

/-- Why there is no meaning for an instruction. -/
inductive Refusal where
  /-- An instruction whose meaning is not written yet. Raised by an arm of `exec` only; no arm raises it now. Safe. -/
  | notModelled (mnemonic : String)
  deriving DecidableEq, Repr

/-- The machine right after hardware reset: every register at the value of R43, both ports empty (R291). -/
def State.reset : State where
  st := .empty
  dir := .encrypt
  pad := .none
  alg := .aes
  mode := .ecb
  ctrBE := .little
  bs := 0
  keySched := ksZero
  ivt0 := Vector.replicate 16 0
  ivt := Vector.replicate 16 0
  kstr := Vector.replicate 16 0
  kpos := 0
  sstate := ksZero
  pend := Vector.replicate 31 0
  plen := 0
  total := 0
  cmdPort := []
  rspPort := []

end Sys2Proof.Machine
end

