-- ==== Sys2Proof/Machine/Operands.lean ====
section
/-!
DEFINITION. How the rules read and write byte-sequence registers, and the byte-sequence arithmetic of rules R7, R9.

A byte-sequence register is read by its first `BS` (or `PLEN`) bytes and written with zeros behind the bytes given
(95_test_vectors.md section 5: "the rest of each 16-byte register is zero"; R34). Log entry 2.
-/

namespace Sys2Proof.Machine

/-- Byte-wise exclusive or of two sequences of one length (R7). -/
def xorBytes (a b : List Byte) : List Byte := List.zipWith (· ^^^ ·) a b

/-- A sequence as the contents of a register of `n` bytes: its bytes first, zeros behind them. -/
def fit (n : Nat) (l : List Byte) : Vector Byte n :=
  ⟨⟨(l ++ zeros n).take n⟩, by simp [zeros]⟩

/-- The register `BS` as a length. -/
def State.blockLen (s : State) : Nat := s.bs.toNat

/-- The first `BS` bytes of `IVT` (R30). -/
def State.ivtBytes (s : State) : List Byte := s.ivt.toList.take s.blockLen

/-- The first `BS` bytes of `KSTR` (R31). -/
def State.kstrBytes (s : State) : List Byte := s.kstr.toList.take s.blockLen

/-- The bytes held in `PEND`, oldest first (R34). -/
def State.pendBytes (s : State) : List Byte := s.pend.toList.take s.plen.toNat

/-- `KSTR[KPOS]` (R205). -/
def State.kstrByte (s : State) : Byte := s.kstr[s.kpos.toNat]'(by have := s.kpos.isLt; omega)

/-- `IVT <- v`. -/
def State.setIvt (s : State) (v : List Byte) : State := { s with ivt := fit 16 v }

/-- `IVT[KPOS] <- b` (R206). -/
def State.setIvtByte (s : State) (b : Byte) : State :=
  { s with ivt := s.ivt.set s.kpos.toNat b (by have := s.kpos.isLt; omega) }

/-- `KSTR <- v`. -/
def State.setKstr (s : State) (v : List Byte) : State := { s with kstr := fit 16 v }

/-- `KPOS <- (KPOS + 1) mod BS` (R205). -/
def State.stepKpos (s : State) : State := { s with kpos := BitVec.ofNat 4 ((s.kpos.toNat + 1) % s.blockLen) }

/-- `SSTATE <- v`. -/
def State.setSState (s : State) (v : KS) : State := { s with sstate := v }

/-- `PEND <- v; PLEN <- len(v)` (R174). -/
def State.setPend (s : State) (v : List Byte) : State :=
  { s with pend := fit 31 v, plen := BitVec.ofNat 5 v.length }

/-- `TOTAL <- TOTAL + n` (R170). -/
def State.addTotal (s : State) (n : Nat) : State := { s with total := BitVec.ofNat 64 (s.total.toNat + n) }

/-- `ST <- v` (R8). -/
def State.setSt (s : State) (v : SessionState) : State := { s with st := v }

end Sys2Proof.Machine
end

