-- ==== Sys2Proof/Machine/Flags.lean ====
section
/-!
DEFINITION. The one flag of the engine (R36), the mode classes (R45), the session predicates the commands test, and the
invariants of R38 on the registers, as far as one state shows them.
-/

namespace Sys2Proof.Machine

/-- OTP's `finalized`, which is `ST == FINALIZED` and has no storage of its own (R36). -/
def State.finalized (s : State) : Bool := s.st == .finalized

/-- The true block modes (R45). -/
inductive BlockMode where
  | ecb
  | cbc
  | xts
  deriving DecidableEq, Repr

/-- The stream-equivalent modes (R45). -/
inductive StreamMode where
  | cfb
  | cfb8
  | ctr
  | ofb
  | rc4
  deriving DecidableEq, Repr

/-- The two classes: exactly one holds for every mode (R45). -/
inductive ModeClass where
  | trueBlock (m : BlockMode)
  | stream (m : StreamMode)
  deriving DecidableEq, Repr

/-- The class of a mode (R45). -/
def modeClass : Mode → ModeClass
  | .ecb => .trueBlock .ecb
  | .cbc => .trueBlock .cbc
  | .cfb => .stream .cfb
  | .cfb8 => .stream .cfb8
  | .ctr => .stream .ctr
  | .ofb => .stream .ofb
  | .xts => .trueBlock .xts
  | .rc4Stream => .stream .rc4

/-- `IsStream(m)` (R45). -/
def isStream (m : Mode) : Bool :=
  match modeClass m with
  | .stream _ => true
  | .trueBlock _ => false

/-- `PadOK(m)`: ECB and CBC only (R45). -/
def padOK : Mode → Bool
  | .ecb => true
  | .cbc => true
  | .cfb => false
  | .cfb8 => false
  | .ctr => false
  | .ofb => false
  | .xts => false
  | .rc4Stream => false

/-- `NeedsIV(m)`: all modes except ECB and RC4-stream (R45). -/
def needsIV : Mode → Bool
  | .ecb => false
  | .cbc => true
  | .cfb => true
  | .cfb8 => true
  | .ctr => true
  | .ofb => true
  | .xts => true
  | .rc4Stream => false

/-- The modes that keep a keystream block: CFB, OFB and CTR (R31, R205). -/
def keepsKeystream : Mode → Bool
  | .ecb => false
  | .cbc => false
  | .cfb => true
  | .cfb8 => false
  | .ctr => true
  | .ofb => true
  | .xts => false
  | .rc4Stream => false

/-- `Withholding`: decrypt with PKCS7 (R45). -/
def State.withholding (s : State) : Bool := s.dir == .decrypt && s.pad == .pkcs7

/-- How many bytes the streaming buffer keeps back beyond an incomplete block (R174). -/
def State.hold (s : State) : Nat := if s.withholding then s.blockLen else 0

/-- The bound of R34 on `PLEN`. -/
def State.plenBounded (s : State) : Bool :=
  if isStream s.mode || s.st == .finalized || s.st == .errored then s.plen.toNat == 0
  else decide (s.plen.toNat < s.blockLen + s.hold)

/-- The invariants (b) to (g) of R38 on the registers of a live session: `BS` is 0 exactly for RC4 and RC4-stream and at
most 16, PKCS7 only with ECB or CBC, XTS only with 16-byte blocks, `PLEN` and `KPOS` within their bounds. -/
def State.sound (s : State) : Bool :=
  ((s.mode == .rc4Stream) == (s.blockLen == 0))
    && ((s.mode == .rc4Stream) == (s.alg == .rc4))
    && decide (s.blockLen ≤ 16)
    && (s.pad == .none || padOK s.mode)
    && (s.mode != .xts || s.blockLen == 16)
    && s.plenBounded
    && (if keepsKeystream s.mode then decide (s.kpos.toNat < s.blockLen) else s.kpos == 0)

end Sys2Proof.Machine
end

