-- ==== Sys2Proof/Machine/Primitive.lean ====
section
/-!
DEFINITION. The primitive port as the rules call it (spec file 20_memory.md, R66 to R71), the default algorithm table
(R41), and the configuration of the engine that `exec` and `step` run.
-/

namespace Sys2Proof.Machine

/-- `EncBlock(alg, ks, b)` (R67). -/
def encBlock (c : Config) (alg : Alg) (ks : KS) (b : List Byte) : List Byte :=
  ((c.cipher alg ks b.length) (vecOf b)).toList

/-- `DecBlock(alg, ks, b)` (R67). -/
def decBlock (c : Config) (alg : Alg) (ks : KS) (b : List Byte) : List Byte :=
  ((c.cipher alg ks b.length).symm (vecOf b)).toList

/-- `EncBlock(b)` for `EncBlock(ALG, KEYSCHED, b)` (R8, R67). -/
def State.enc (c : Config) (s : State) (b : List Byte) : List Byte := encBlock c s.alg s.keySched b

/-- `DecBlock(b)` for `DecBlock(ALG, KEYSCHED, b)` (R8, R67). -/
def State.dec (c : Config) (s : State) (b : List Byte) : List Byte := decBlock c s.alg s.keySched b

/-- `BlockSize`, the default table of R41. PRESUMED (the spec marks it general knowledge), log entry 3. -/
def defaultBlockSize : Alg → Nat
  | .aes => 16
  | .des => 8
  | .tripleDes => 8
  | .cast => 8
  | .rc4 => 0
  | .rc2 => 8
  | .blowfish => 8

/-- `KeyLenOK`, the default table of R41. PRESUMED (the spec marks it general knowledge), log entry 3. -/
def defaultKeyLenOK (alg : Alg) (n : Nat) : Bool :=
  match alg with
  | .aes => n == 16 || n == 24 || n == 32
  | .des => n == 8
  | .tripleDes => n == 24
  | .cast => decide (5 ≤ n ∧ n ≤ 16)
  | .rc4 => decide (1 ≤ n ∧ n ≤ 512)
  | .rc2 => decide (1 ≤ n ∧ n ≤ 128)
  | .blowfish => decide (8 ≤ n ∧ n ≤ 56)

/-- `VarRounds`, the default table of R41: false for every algorithm. -/
def defaultVarRounds (_ : Alg) : Bool := false

/-- `AlgImpl` of the default build (R6): every algorithm. -/
def defaultAlgImpl (_ : Alg) : Bool := true

/-- `ModeImpl` of the default build (R6): every mode. -/
def defaultModeImpl (_ : Mode) : Bool := true

/-- The configuration of the engine: the defaults of R6 and R41, and the primitive's functions, of which nothing is
known but R67. Log entries 3, 4, 5. -/
def engine : Config where
  blockSize := defaultBlockSize
  keyLenOK := defaultKeyLenOK
  varRounds := defaultVarRounds
  algImpl := defaultAlgImpl
  modeImpl := defaultModeImpl
  schedule := Config.freeSchedule
  cipher := Config.freeCipher
  streamStep := Config.freeStreamStep
  xtsTweakInit := Config.freeXtsTweakInit

/-- The named instantiation `Identity` of `XtsTweakInit` (R71): `T0 = v`. -/
def identityTweak (_ : Alg) (_ : KS) (v : Vector Byte 16) : Vector Byte 16 := v

/-- The named instantiation `EncData` of `XtsTweakInit` (R71): `T0 = EncBlock(alg, ks, v)`. -/
def encDataTweak (c : Config) (alg : Alg) (ks : KS) (v : Vector Byte 16) : Vector Byte 16 := c.cipher alg ks 16 v

end Sys2Proof.Machine
end

