-- ==== Sys2Proof/Machine/Ops.lean ====
section
/-!
DEFINITION. The operations the commands share: the response packet (30_encoding.md R110, R111), the two ways a command
fails (60_exceptions.md R262 to R264), the error entry and its return paths, and `LoadIV` (40_session_commands.md R135).
-/

namespace Sys2Proof.Machine

/-- The status codes (R111). `BufferTooSmall`, `MemoryFailure`, `AlignmentError` and `RNGFailure` are never raised
(R253, R254, R255, R259). -/
inductive Status where
  | success
  | paramError
  | bufferTooSmall
  | memoryFailure
  | alignmentError
  | decodeError
  | unimplemented
  | overflow
  | rngFailure
  deriving DecidableEq, Repr

/-- The numbers of R111. -/
def Status.code : Status → Nat
  | .success => 0
  | .paramError => 1
  | .bufferTooSmall => 2
  | .memoryFailure => 3
  | .alignmentError => 4
  | .decodeError => 5
  | .unimplemented => 6
  | .overflow => 7
  | .rngFailure => 8

/-- The response packet of R110: `STATUS`, `DLEN`, `VALUE`, then the data. -/
def responsePacket (status : Status) (data : List Byte) (value : Nat) : List Byte :=
  u32le status.code ++ u32le data.length ++ u32le value ++ data

/-- A response packet read back by its layout (R110). -/
structure Response where
  /-- `STATUS`. -/
  status : Nat
  /-- `DLEN`. -/
  dlen : Nat
  /-- `VALUE`. -/
  value : Nat
  /-- The output bytes. -/
  data : List Byte
  deriving DecidableEq, Repr

/-- Reading a response packet by the layout of R110. -/
def readResponse (pkt : List Byte) : Response :=
  { status := leNat (cmdRead pkt 0 4)
    dlen := leNat (cmdRead pkt 4 4)
    value := leNat (cmdRead pkt 8 4)
    data := pkt.drop 12 }

/-- `Respond(status, data, value)` (R8, R110): one response packet leaves on the response port. -/
def State.respond (s : State) (status : Status) (data : List Byte) (value : Nat) : State :=
  { s with rspPort := s.rspPort ++ [responsePacket status data value] }

/-- The end of a command that succeeds (R251). -/
def succeed (s : State) (data : List Byte) (value : Nat) : Host.Outcome State Fault Refusal :=
  .next (s.respond .success data value)

/-- Class A: the command is answered with its status and no data, and no register changes (R262). -/
def failClassA (s : State) (status : Status) : Host.Outcome State Fault Refusal :=
  .next (s.respond status [] 0)

/-- The error entry: the register writes of R264. It keeps `DIR`, `PAD`, `ALG`, `MODE`, `CTR_BE`, `BS`, `KEYSCHED`. -/
def State.errorEntry (s : State) : State :=
  { s with
    st := .errored
    pend := Vector.replicate 31 0
    plen := 0
    kstr := Vector.replicate 16 0
    kpos := 0
    ivt := Vector.replicate 16 0
    ivt0 := Vector.replicate 16 0
    sstate := ksZero
    total := 0 }

/-- Class B: the error entry, answered with the status and no data (R263, R264). -/
def failClassB (s : State) (status : Status) : Host.Outcome State Fault Refusal :=
  .next (s.errorEntry.respond status [] 0)

/-- A value the registers of a live session cannot hold: R276 gives no behaviour. Log entry 8. -/
def internalViolation : Host.Outcome State Fault Refusal := .fault .invariantViolation

/-- The value `LoadIV` puts in `IVT0` (R135). -/
def loadedIvt0 (mode : Mode) (v : List Byte) : Vector Byte 16 :=
  if needsIV mode then fit 16 v else Vector.replicate 16 0

/-- The value `LoadIV` puts in `IVT` (R135; XTS through `XtsTweakInit`, R221). -/
def loadedIvt (c : Config) (mode : Mode) (alg : Alg) (ks : KS) (v : List Byte) : Vector Byte 16 :=
  match mode with
  | .ecb => Vector.replicate 16 0
  | .cbc => fit 16 v
  | .cfb => fit 16 v
  | .cfb8 => fit 16 v
  | .ctr => fit 16 v
  | .ofb => fit 16 v
  | .xts => c.xtsTweakInit alg ks (fit 16 v)
  | .rc4Stream => Vector.replicate 16 0

/-- The value `LoadIV` puts in `SSTATE` (R135). -/
def loadedSState (mode : Mode) (ks : KS) : KS := if mode = .rc4Stream then ks else ksZero

/-- `LoadIV(v)`, the common tail of CREATE and RESET (R135), with `ST <- ACTIVE` (R134, R140). RESET through it is the
return from the error state (R266). -/
def State.loadIV (c : Config) (s : State) (v : List Byte) : State :=
  { s with
    st := .active
    pend := Vector.replicate 31 0
    plen := 0
    total := 0
    kstr := Vector.replicate 16 0
    kpos := 0
    ivt0 := loadedIvt0 s.mode v
    ivt := loadedIvt c s.mode s.alg s.keySched v
    sstate := loadedSState s.mode s.keySched }

/-- Every register at its reset value, the ports untouched (R145, R43). -/
def State.clearRegisters (s : State) : State :=
  { State.reset with cmdPort := s.cmdPort, rspPort := s.rspPort }

/-- The end of a successful FINAL (R180, R185): `PEND`, `PLEN`, `KSTR`, `KPOS` cleared, `ST <- FINALIZED`. -/
def State.finish (s : State) : State :=
  { s with
    st := .finalized
    pend := Vector.replicate 31 0
    plen := 0
    kstr := Vector.replicate 16 0
    kpos := 0 }

end Sys2Proof.Machine
end

