-- ==== Sys2Proof/Machine/ModeDriver.lean ====
section
/-!
DEFINITION. The Mode Driver (spec file 42_mode_driver.md, R200 to R230): one unit transform per mode. A unit transform
writes only `IVT`, `KSTR`, `KPOS`, `SSTATE` and cannot fail (R200). The formulas the spec marks "from general
knowledge" are those it writes; log entry 9.
-/

namespace Sys2Proof.Machine

/-- The ciphertext byte of a feedback mode: the output when encrypting, the input when decrypting (R206, R207). -/
def State.cipherByte (s : State) (input output : Byte) : Byte :=
  match s.dir with
  | .encrypt => output
  | .decrypt => input

/-- ECB (R202). -/
def ecbUnit (c : Config) (s : State) (b : List Byte) : State × List Byte :=
  match s.dir with
  | .encrypt => (s, s.enc c b)
  | .decrypt => (s, s.dec c b)

/-- CBC, encrypt (R203). -/
def cbcEncUnit (c : Config) (s : State) (b : List Byte) : State × List Byte :=
  let y := s.enc c (xorBytes b s.ivtBytes)
  (s.setIvt y, y)

/-- CBC, decrypt (R204): `IVT` takes the input block. -/
def cbcDecUnit (c : Config) (s : State) (b : List Byte) : State × List Byte :=
  (s.setIvt b, xorBytes (s.dec c b) s.ivtBytes)

/-- CBC (R201, R203, R204). -/
def cbcUnit (c : Config) (s : State) (b : List Byte) : State × List Byte :=
  match s.dir with
  | .encrypt => cbcEncUnit c s b
  | .decrypt => cbcDecUnit c s b

/-- Each byte shifted left by one bit, taking in the top bit of the byte before it (R222). -/
def shiftLeftBytes (prev : Byte) : List Byte → List Byte
  | [] => []
  | b :: t => ((b <<< 1) ||| (prev >>> 7)) :: shiftLeftBytes b t

/-- The reduction of R222: `0x87` into byte 0. -/
def reduceTweak : List Byte → List Byte
  | [] => []
  | b :: t => (b ^^^ 0x87#8) :: t

/-- `MulAlpha(T)`, the multiplication by `x` in GF(2^128) (R222). -/
def mulAlpha (t : List Byte) : List Byte :=
  let shifted := shiftLeftBytes 0#8 t
  if t.getLastD 0#8 >>> 7 = 1#8 then reduceTweak shifted else shifted

/-- XTS (R220). -/
def xtsUnit (c : Config) (s : State) (b : List Byte) : State × List Byte :=
  let t := s.ivtBytes
  let y := match s.dir with
    | .encrypt => xorBytes (s.enc c (xorBytes b t)) t
    | .decrypt => xorBytes (s.dec c (xorBytes b t)) t
  (s.setIvt (mulAlpha t), y)

/-- `BlockUnit(b)` (R201). -/
def blockUnit (c : Config) (m : BlockMode) (s : State) (b : List Byte) : State × List Byte :=
  match m with
  | .ecb => ecbUnit c s b
  | .cbc => cbcUnit c s b
  | .xts => xtsUnit c s b

/-- `CtrInc(v)` (R210): the sequence as an integer in the configured byte order, plus one, modulo `2^(8*BS)`. -/
def ctrInc (order : Endian) (v : List Byte) : List Byte :=
  match order with
  | .little => leBytes v.length ((leNat v + 1) % 2 ^ (8 * v.length))
  | .big => (leBytes v.length ((leNat v.reverse + 1) % 2 ^ (8 * v.length))).reverse

/-- CFB makes a keystream block when `KPOS == 0` (R206). -/
def cfbRefill (c : Config) (s : State) : State :=
  if s.kpos = 0 then s.setKstr (s.enc c s.ivtBytes) else s

/-- CFB (R206). -/
def cfbUnit (c : Config) (s : State) (x : Byte) : State × Byte :=
  let s1 := cfbRefill c s
  let y := x ^^^ s1.kstrByte
  ((s1.setIvtByte (s1.cipherByte x y)).stepKpos, y)

/-- CFB8 (R207). -/
def cfb8Unit (c : Config) (s : State) (x : Byte) : State × Byte :=
  let y := x ^^^ (s.enc c s.ivtBytes).headD 0#8
  (s.setIvt (s.ivtBytes.drop 1 ++ [s.cipherByte x y]), y)

/-- OFB makes a keystream block when `KPOS == 0` (R208). -/
def ofbRefill (c : Config) (s : State) : State :=
  if s.kpos = 0 then (s.setIvt (s.enc c s.ivtBytes)).setKstr (s.enc c s.ivtBytes) else s

/-- OFB (R208). -/
def ofbUnit (c : Config) (s : State) (x : Byte) : State × Byte :=
  let s1 := ofbRefill c s
  (s1.stepKpos, x ^^^ s1.kstrByte)

/-- CTR makes a keystream block when `KPOS == 0` (R209). -/
def ctrRefill (c : Config) (s : State) : State :=
  if s.kpos = 0 then (s.setKstr (s.enc c s.ivtBytes)).setIvt (ctrInc s.ctrBE s.ivtBytes) else s

/-- CTR (R209). -/
def ctrUnit (c : Config) (s : State) (x : Byte) : State × Byte :=
  let s1 := ctrRefill c s
  (s1.stepKpos, x ^^^ s1.kstrByte)

/-- RC4-stream (R230). -/
def rc4Unit (c : Config) (s : State) (x : Byte) : State × Byte :=
  let ks := c.streamStep s.alg s.sstate
  (s.setSState ks.2, x ^^^ ks.1)

/-- `ByteUnit(x)` (R201). -/
def byteUnit (c : Config) (m : StreamMode) (s : State) (x : Byte) : State × Byte :=
  match m with
  | .cfb => cfbUnit c s x
  | .cfb8 => cfb8Unit c s x
  | .ctr => ctrUnit c s x
  | .ofb => ofbUnit c s x
  | .rc4 => rc4Unit c s x

end Sys2Proof.Machine
end

