-- ==== Sys2Proof/Machine/PaddingPolicy.lean ====
section
/-!
DEFINITION. The Padding Policy (spec file 43_padding.md, R240, R241): two pure functions.
-/

namespace Sys2Proof.Machine

/-- `Pad(p, bs)` (R240). -/
def pkcs7Pad (p : List Byte) (bs : Nat) : List Byte :=
  p ++ List.replicate (bs - p.length) (BitVec.ofNat 8 (bs - p.length))

/-- `Unpad(b, bs)` (R241): the payload, or nothing where the spec's `ok` is false. -/
def pkcs7Unpad (b : List Byte) (bs : Nat) : Option (List Byte) :=
  let fill := b.getD (bs - 1) 0#8
  let n := fill.toNat
  if n = 0 ∨ bs < n then none
  else if (b.drop (bs - n)).all (· == fill) then some (b.take (bs - n))
  else none

end Sys2Proof.Machine
end

