-- ==== Sys2Proof/Machine/Buffer.lean ====
section
/-!
DEFINITION. The Streaming Buffer (spec file 41_data_commands.md, R173, R174, R182 to R184) and the output-length
prediction (40_session_commands.md, R156).
-/

namespace Sys2Proof.Machine

/-- `StreamPush(input)` (R173): each byte is transformed at once. -/
def streamPush (c : Config) (m : StreamMode) (s : State) : List Byte → State × List Byte
  | [] => (s, [])
  | x :: rest =>
    let r := byteUnit c m s x
    let t := streamPush c m r.1 rest
    (t.1, r.2 :: t.2)

/-- The loop of `BlockPush` (R174): while the buffer holds `BS + hold` bytes, its oldest block is transformed. The
fuel is the buffer's length, which is enough because each turn removes `BS > 0` bytes. The answer is the state, the
output and the buffer that remains. -/
def blockLoop (c : Config) (m : BlockMode) : Nat → State → List Byte → State × List Byte × List Byte
  | 0, s, buf => (s, [], buf)
  | fuel + 1, s, buf =>
    if s.blockLen + s.hold ≤ buf.length then
      let r := blockUnit c m s (buf.take s.blockLen)
      let t := blockLoop c m fuel r.1 (buf.drop s.blockLen)
      (t.1, r.2 ++ t.2.1, t.2.2)
    else (s, [], buf)

/-- `BlockPush(input)` (R174). -/
def blockPush (c : Config) (m : BlockMode) (s : State) (input : List Byte) : State × List Byte :=
  let buf := s.pendBytes ++ input
  let r := blockLoop c m buf.length s buf
  (r.1.setPend r.2.2, r.2.1)

/-- The path of UPDATE by the mode's class (R170). -/
def push (c : Config) (s : State) (input : List Byte) : State × List Byte :=
  match modeClass s.mode with
  | .stream m => streamPush c m s input
  | .trueBlock m => blockPush c m s input

/-- `OutLen(n, fin)` (R156), an unbounded integer. Division is by `BS`, which is not 0 in a true block mode of a sound
state. -/
def outLen (s : State) (n : Nat) (fin : Bool) : Nat :=
  let q := (s.plen.toNat + n) / s.blockLen
  match modeClass s.mode with
  | .stream _ => n
  | .trueBlock _ =>
    match s.pad, s.dir, fin with
    | .none, _, _ => q * s.blockLen
    | .pkcs7, .encrypt, false => q * s.blockLen
    | .pkcs7, .encrypt, true => (q + 1) * s.blockLen
    | .pkcs7, .decrypt, false => (q - 1) * s.blockLen
    | .pkcs7, .decrypt, true => q * s.blockLen

/-- How FINAL's body ends before its tail: with output, or with an error status (R181 to R184). -/
inductive Flushed where
  | output (s : State) (data : List Byte)
  | error (status : Status)
  deriving DecidableEq, Repr

/-- `FinalEncPad()` (R182). -/
def finalEncPad (c : Config) (m : BlockMode) (s : State) : Flushed :=
  let r := blockUnit c m s (pkcs7Pad s.pendBytes s.blockLen)
  .output r.1 r.2

/-- `FinalDecPad()` (R183). -/
def finalDecPad (c : Config) (m : BlockMode) (s : State) : Flushed :=
  if s.plen.toNat ≠ s.blockLen then .error .paramError
  else
    let r := blockUnit c m s s.pendBytes
    match pkcs7Unpad r.2 s.blockLen with
    | none => .error .decodeError
    | some payload => .output r.1 payload

/-- `FinalNoPad()` (R184). -/
def finalNoPad (s : State) : Flushed :=
  if s.plen.toNat ≠ 0 then .error .paramError else .output s []

/-- The body of FINAL by the session's mode, padding and direction (R180, R181). -/
def flush (c : Config) (s : State) : Flushed :=
  match modeClass s.mode with
  | .stream _ => .output s []
  | .trueBlock m =>
    match s.pad, s.dir with
    | .pkcs7, .encrypt => finalEncPad c m s
    | .pkcs7, .decrypt => finalDecPad c m s
    | .none, _ => finalNoPad s

end Sys2Proof.Machine
end

