-- ==== Sys2Proof/Machine/Session.lean ====
section
/-!
DEFINITION. The session commands CREATE, RESET, RELEASE, GETOUTLEN (spec file 40_session_commands.md), for any
configuration. The packet is already decoded: a malformed one is answered by the port (Machine/Port.lean).
-/

namespace Sys2Proof.Machine

/-- CREATE checks 4 to 11 of R133 in order, each with its status if it does not hold (check 3 has given `alg`). -/
def createChecks (c : Config) (a : CreateArgs) (alg : Alg) : List (Bool × Status) :=
  [ (c.algImpl alg && c.modeImpl a.mode, .unimplemented),
    ((alg == .rc4) == (a.mode == .rc4Stream), .paramError),
    (a.mode != .xts || c.blockSize alg == 16, .paramError),
    (a.pad == .none || padOK a.mode, .paramError),
    (c.keyLenOK alg a.key.length, .paramError),
    (!(needsIV a.mode && a.mode != .xts) || (a.iv.isSome && (optBytes a.iv).length == c.blockSize alg), .paramError),
    (a.mode != .xts || (a.tweak.isSome && (optBytes a.tweak).length == 16), .paramError),
    (!a.rounds.isSome || c.varRounds alg, .paramError) ]

/-- The status of the first check that does not hold (R133, R261). -/
def firstFailure : List (Bool × Status) → Option Status
  | [] => none
  | (true, _) :: rest => firstFailure rest
  | (false, status) :: _ => some status

/-- The configuration registers and the key schedule a successful CREATE writes (R134). -/
def State.configure (c : Config) (s : State) (a : CreateArgs) (alg : Alg) : State :=
  { s with
    dir := a.dir
    pad := a.pad
    alg := alg
    mode := a.mode
    ctrBE := a.ctrBE
    bs := BitVec.ofNat 5 (c.blockSize alg)
    keySched := c.schedule alg a.key a.rounds }

/-- The operand of CREATE that `LoadIV` takes: the tweak for XTS, the IV otherwise (R134). -/
def createIV (a : CreateArgs) : List Byte :=
  if a.mode = .xts then optBytes a.tweak else optBytes a.iv

/-- CREATE (R132 to R135). -/
def createCommand (c : Config) (a : CreateArgs) (s : State) : Host.Outcome State Fault Refusal :=
  if s.st ≠ .empty then failClassA s .paramError
  else
    match a.alg with
    | .reserved => failClassA s .paramError
    | .known alg =>
      match firstFailure (createChecks c a alg) with
      | some status => failClassA s status
      | none => succeed ((s.configure c a alg).loadIV c (createIV a)) [] 0

/-- RESET's own check (R140): a mode that needs an IV gets one of `BS` bytes. For XTS it is the tweak value. -/
def resetIVOK (s : State) (iv : Option (List Byte)) : Bool :=
  !needsIV s.mode || (iv.isSome && (optBytes iv).length == s.blockLen)

/-- RESET (R140). -/
def resetCommand (c : Config) (iv : Option (List Byte)) (s : State) : Host.Outcome State Fault Refusal :=
  if s.st = .empty then failClassA s .paramError
  else if resetIVOK s iv then succeed (s.loadIV c (optBytes iv)) [] 0
  else failClassA s .paramError

/-- RELEASE (R145). -/
def releaseCommand (s : State) : Host.Outcome State Fault Refusal :=
  if s.st = .empty then failClassA s .paramError
  else succeed s.clearRegisters [] 0

/-- GETOUTLEN (R155 to R157). -/
def getOutLenCommand (addLen : BitVec 32) (fin : Bool) (s : State) : Host.Outcome State Fault Refusal :=
  if s.st = .empty then failClassA s .paramError
  else if !s.sound then internalViolation
  else if 2 ^ 32 - 1 < outLen s addLen.toNat fin then failClassA s .overflow
  else succeed s [] (outLen s addLen.toNat fin)

/-- CREATE, as the engine runs it. -/
def execCreate (a : CreateArgs) (s : State) : Host.Outcome State Fault Refusal := createCommand engine a s

/-- RESET, as the engine runs it. -/
def execReset (iv : Option (List Byte)) (s : State) : Host.Outcome State Fault Refusal := resetCommand engine iv s

/-- GETOUTLEN, as the engine runs it. -/
def execGetOutLen (addLen : BitVec 32) (fin : Bool) (s : State) : Host.Outcome State Fault Refusal :=
  getOutLenCommand addLen fin s

/-- RELEASE, as the engine runs it. -/
def execRelease (s : State) : Host.Outcome State Fault Refusal := releaseCommand s

end Sys2Proof.Machine
end

