-- ==== Sys2Proof/Machine/Data.lean ====
section
/-!
DEFINITION. The data commands UPDATE and FINAL (spec file 41_data_commands.md), for any configuration.
-/

namespace Sys2Proof.Machine

/-- UPDATE (R170 to R176). -/
def updateCommand (c : Config) (input : List Byte) (s : State) : Host.Outcome State Fault Refusal :=
  if s.st ≠ .active then failClassA s .paramError
  else if !s.sound then internalViolation
  else if 2 ^ 64 - 1 < s.total.toNat + input.length then failClassB s .overflow
  else if 2 ^ 32 - 1 < outLen s input.length false then failClassB s .overflow
  else
    let r := push c s input
    succeed (r.1.addTotal input.length) r.2 0

/-- FINAL (R180 to R185). -/
def finalCommand (c : Config) (s : State) : Host.Outcome State Fault Refusal :=
  if s.st ≠ .active then failClassA s .paramError
  else if !s.sound then internalViolation
  else
    match flush c s with
    | .error status => failClassB s status
    | .output s1 data => succeed s1.finish data 0

/-- UPDATE, as the engine runs it. -/
def execUpdate (input : List Byte) (s : State) : Host.Outcome State Fault Refusal := updateCommand engine input s

/-- FINAL, as the engine runs it. -/
def execFinal (s : State) : Host.Outcome State Fault Refusal := finalCommand engine s

/-- The commands under any configuration. `exec` is the case of the engine's own (a law in Laws/Commands.lean). -/
def execWith (c : Config) (i : Instr) (s : State) : Host.Outcome State Fault Refusal :=
  match i with
  | .create a => createCommand c a s
  | .update input => updateCommand c input s
  | .final => finalCommand c s
  | .reset iv => resetCommand c iv s
  | .getOutLen addLen fin => getOutLenCommand addLen fin s
  | .release => releaseCommand s

end Sys2Proof.Machine
end

