-- ==== Sys2Proof/Machine/Dispatch.lean ====
section
/-!
DEFINITION. One arm per command, each one direct call of its meaning.
-/

namespace Sys2Proof.Machine

def exec (i : Instr) (s : State) : Host.Outcome State Fault Refusal :=
  match i with
  | .create a => Sys2Proof.Machine.execCreate a s
  | .update input => Sys2Proof.Machine.execUpdate input s
  | .final => Sys2Proof.Machine.execFinal s
  | .reset iv => Sys2Proof.Machine.execReset iv s
  | .getOutLen addLen fin => Sys2Proof.Machine.execGetOutLen addLen fin s
  | .release => Sys2Proof.Machine.execRelease s

end Sys2Proof.Machine
end

