-- ==== Sys2Proof/Machine/Port.lean ====
section
/-!
DEFINITION. The command port (20_memory.md R60, R72): taking the next event in arrival order, decoding a packet, and
answering a malformed one (30_encoding.md R106); hardware reset (70_reset_and_hazards.md R290).
-/

namespace Sys2Proof.Machine

/-- One command packet, already taken from the port: decoded and run, or answered `ParamError` without any change
(R106, R262). -/
def servePacket (run : Instr → State → Host.Outcome State Fault Refusal) (pkt : List Byte) (s : State) :
    Host.Outcome State Fault Refusal :=
  match decode pkt with
  | .instr i => run i s
  | .tooShort => failClassA s .paramError
  | .reservedOpcode => failClassA s .paramError
  | .mustBeZero => failClassA s .paramError
  | .presenceMismatch => failClassA s .paramError
  | .lengthMismatch => failClassA s .paramError

/-- One event of the port, in arrival order (R72). With nothing on the port the engine is idle and holds its registers
(R275). Hardware reset leaves every register at its reset value and the response port empty (R290, R291); what the
host does later is still to come. Log entries 6, 7. -/
def serve (run : Instr → State → Host.Outcome State Fault Refusal) (s : State) : Host.Outcome State Fault Refusal :=
  match s.cmdPort with
  | [] => .next s
  | .hardwareReset :: later => .next { State.reset with cmdPort := later }
  | .packet pkt :: later => servePacket run pkt { s with cmdPort := later }

/-- The state with one packet put at the head of the command port. -/
def State.withPacket (s : State) (pkt : List Byte) : State := { s with cmdPort := .packet pkt :: s.cmdPort }

end Sys2Proof.Machine
end

