-- ==== Sys2Proof/Machine/Step.lean ====
section
/-!
DEFINITION. The step of the machine: the next event of the command port (rules R5, R72).
-/

namespace Sys2Proof.Machine

/-- One step: one event of the command port, run by `exec`. -/
def step (s : State) : Host.Outcome State Fault Refusal := serve exec s

/-- The table's word as the packet the next step takes (the host's fixed name). -/
def State.withFetchWord (s : State) (nbits w : Nat) : State := s.withPacket (tablePacket nbits w)

end Sys2Proof.Machine
end

