-- ==== Sys2Proof/Machine/Pseudo.lean ====
section
/-!
DEFINITION. The pseudo-commands `ENCRYPT` and `DECRYPT` (30_encoding.md R113): sequences of commands the host issues,
and the result it takes from their responses. They are not commands of the engine.
-/

namespace Sys2Proof.Machine

/-- The result of a pseudo-command: a status and the output bytes. -/
structure MessageResult where
  status : Nat
  data : List Byte
  deriving DecidableEq, Repr

/-- One command run and its response read from the response port; nothing where the command is not answered. -/
def issue (run : Instr → State → Host.Outcome State Fault Refusal) (i : Instr) (s : State) : Option (State × Response) :=
  match run i s with
  | .next t => some (t, readResponse (t.rspPort.getLastD []))
  | .fault _ => none
  | .refused _ => none

/-- Commands run one after the other, with their responses in order. -/
def issueAll (run : Instr → State → Host.Outcome State Fault Refusal) : List Instr → State → Option (State × List Response)
  | [], s => some (s, [])
  | i :: rest, s =>
    match issue run i s with
    | none => none
    | some (t, r) =>
      match issueAll run rest t with
      | none => none
      | some (u, rs) => some (u, r :: rs)

/-- The status of the first response that fails, or `Success` with the outputs in order (R113). -/
def messageResult : List Response → MessageResult
  | [] => ⟨0, []⟩
  | r :: rest =>
    if r.status ≠ 0 then ⟨r.status, []⟩
    else
      let m := messageResult rest
      if m.status ≠ 0 then m else ⟨0, r.data ++ m.data⟩

/-- CREATE, then UPDATE, FINAL and RELEASE; it stops after a CREATE that fails (R113). -/
def runMessage (run : Instr → State → Host.Outcome State Fault Refusal) (a : CreateArgs) (input : List Byte) (s : State) :
    Option (State × MessageResult) :=
  match issue run (.create a) s with
  | none => none
  | some (t, r) =>
    if r.status ≠ 0 then some (t, ⟨r.status, []⟩)
    else
      match issueAll run [.update input, .final, .release] t with
      | none => none
      | some (u, rs) => some (u, messageResult rs)

/-- `ENCRYPT` (R113). -/
def encryptMessage (run : Instr → State → Host.Outcome State Fault Refusal) (a : CreateArgs) (input : List Byte)
    (s : State) : Option (State × MessageResult) :=
  runMessage run { a with dir := .encrypt } input s

/-- `DECRYPT` (R113). -/
def decryptMessage (run : Instr → State → Host.Outcome State Fault Refusal) (a : CreateArgs) (input : List Byte)
    (s : State) : Option (State × MessageResult) :=
  runMessage run { a with dir := .decrypt } input s

end Sys2Proof.Machine
end

