-- ==== Sys2Proof/Safety.lean ====
section
/-!
DEFINITION. What counts as a good state and a safe step (rules R34, R38, R43, R250).
-/

namespace Sys2Proof.Machine

/-- The registers hold nothing behind the bytes the rules read: `IVT0`, `IVT`, `KSTR` behind `BS`, `PEND` behind `PLEN`
(R34, 95_test_vectors.md section 5). -/
def State.tailsZero (s : State) : Prop :=
  s.ivt0.toList.drop s.blockLen = zeros (16 - s.blockLen)
    ∧ s.ivt.toList.drop s.blockLen = zeros (16 - s.blockLen)
    ∧ s.kstr.toList.drop s.blockLen = zeros (16 - s.blockLen)
    ∧ s.pend.toList.drop s.plen.toNat = zeros (31 - s.plen.toNat)

/-- In a true block mode `PLEN` is what R174 leaves of `TOTAL` bytes: outside withholding mode `TOTAL mod BS`; in
withholding mode all of them below one block, and one block more than `TOTAL mod BS` from there on (R175, R34). -/
def State.plenTracksTotal (s : State) : Prop :=
  s.plen.toNat =
    if s.withholding && decide (s.blockLen ≤ s.total.toNat) then s.blockLen + s.total.toNat % s.blockLen
    else s.total.toNat % s.blockLen

/-- The invariants of a state between commands (R38, with R34 and R43). -/
structure Inv (c : Config) (s : State) : Prop where
  /-- When `ST == EMPTY`, every register holds its reset value (R38, R43). -/
  empty_reset : s.st = .empty → s = { State.reset with cmdPort := s.cmdPort, rspPort := s.rspPort }
  /-- `BS = BlockSize(ALG)` in a live session (R38 b). -/
  bs_latched : s.st ≠ .empty → s.blockLen = c.blockSize s.alg
  /-- R38 (b) to (g) in a live session. -/
  live_sound : s.st ≠ .empty → s.sound = true
  /-- Nothing behind the bytes the rules read. -/
  tails : s.tailsZero
  /-- `PLEN` follows `TOTAL` while a true block session is `ACTIVE`. -/
  plen_total : s.st = .active → isStream s.mode = false → s.plenTracksTotal
  /-- Outside RC4-stream `SSTATE` is `KS_ZERO` (R33). -/
  sstate_zero : s.mode ≠ .rc4Stream → s.sstate = ksZero
  /-- Outside CFB, OFB and CTR there is no keystream block (R31). -/
  kstr_zero : keepsKeystream s.mode = false → s.kstr = Vector.replicate 16 0
  /-- ECB and RC4-stream carry neither an IV nor a chain value (R29, R30). -/
  no_chain : needsIV s.mode = false → s.ivt0 = Vector.replicate 16 0 ∧ s.ivt = Vector.replicate 16 0

/-- A step that goes on: neither a fault nor a refusal (R250: every command is answered). -/
def GoesOn (o : Host.Outcome State Fault Refusal) : Prop := ∃ t, o = .next t

/-- The engine gives exactly one answer to the packet at the head of its port: the response port grows by one packet,
and the port moves on (R61, R72, R250). -/
def AnswersOnce (s t : State) : Prop :=
  ∃ status data value, t.rspPort = s.rspPort ++ [responsePacket status data value] ∧ t.cmdPort = s.cmdPort.tail

end Sys2Proof.Machine
end

