-- ==== Sys2Proof/Certificates/Slice0/Obligations.lean ====
section
/-!
DEFINITION. The statements for the provers, and the few helper notions they are written with. A helper says what the
spec says in another form than the model does (a table, a fold over blocks), so that a statement compares the two.
-/

namespace Sys2Proof.Claims

open Sys2Proof.Machine

/-- Two states have the same registers, whatever their ports hold. -/
def sameRegisters (s t : State) : Prop :=
  { s with cmdPort := [], rspPort := [] } = { t with cmdPort := [], rspPort := [] }

/-- Two sessions have the same configuration and key schedule. -/
def sameConfiguration (s t : State) : Prop :=
  s.dir = t.dir ∧ s.pad = t.pad ∧ s.alg = t.alg ∧ s.mode = t.mode ∧ s.ctrBE = t.ctrBE ∧ s.bs = t.bs
    ∧ s.keySched = t.keySched

/-- The rows of spec/opcode_table.json as pairs of `match` and `mask` over `D`. -/
def opcodeRows : List (Nat × Nat) :=
  [ (0x0000000000000001, 0x00000000FFFF000F),
    (0x0000000000000002, 0x00000000FFFFFFFF),
    (0x0000000000000003, 0xFFFFFFFFFFFFFFFF),
    (0x0000000000000004, 0xFFFFFF00FFFFDFFF),
    (0x0000000000000005, 0x00000000FFFEFFFF),
    (0x0000000000000006, 0xFFFFFFFFFFFFFFFF) ]

/-- A descriptor `D` matches a row. -/
def matchesRow (d : Nat) (row : Nat × Nat) : Prop := d &&& row.2 = row.1

/-- Which command `ST` admits (R131). -/
def admitted (st : SessionState) : Instr → Prop
  | .create _ => st = .empty
  | .update _ => st = .active
  | .final => st = .active
  | .reset _ => st ≠ .empty
  | .getOutLen _ _ => st ≠ .empty
  | .release => st ≠ .empty

/-- The row `EMPTY` of R130: the status of the response and `ST` after. -/
def fromEmpty : Instr → List (Status × SessionState)
  | .create _ => [(.success, .active), (.paramError, .empty), (.unimplemented, .empty)]
  | .update _ => [(.paramError, .empty)]
  | .final => [(.paramError, .empty)]
  | .reset _ => [(.paramError, .empty)]
  | .getOutLen _ _ => [(.paramError, .empty)]
  | .release => [(.paramError, .empty)]

/-- The row `ACTIVE` of R130. -/
def fromActive : Instr → List (Status × SessionState)
  | .create _ => [(.paramError, .active)]
  | .update _ => [(.success, .active), (.overflow, .errored)]
  | .final => [(.success, .finalized), (.paramError, .errored), (.decodeError, .errored)]
  | .reset _ => [(.success, .active), (.paramError, .active)]
  | .getOutLen _ _ => [(.success, .active), (.overflow, .active)]
  | .release => [(.success, .empty)]

/-- The rows `FINALIZED` and `ERRORED` of R130, which differ in `ST` alone. -/
def fromEnded (st : SessionState) : Instr → List (Status × SessionState)
  | .create _ => [(.paramError, st)]
  | .update _ => [(.paramError, st)]
  | .final => [(.paramError, st)]
  | .reset _ => [(.success, .active), (.paramError, st)]
  | .getOutLen _ _ => [(.success, st), (.overflow, st)]
  | .release => [(.success, .empty)]

/-- The cells of R130, for a packet that is well-formed. -/
def transitions (st : SessionState) (i : Instr) : List (Status × SessionState) :=
  match st with
  | .empty => fromEmpty i
  | .active => fromActive i
  | .finalized => fromEnded .finalized i
  | .errored => fromEnded .errored i

/-- The status of the first CREATE check of R133 (3 to 11) that does not hold. -/
def createVerdict (c : Config) (a : CreateArgs) : Option Status :=
  match a.alg with
  | .reserved => some .paramError
  | .known alg =>
    if c.algImpl alg = false ∨ c.modeImpl a.mode = false then some .unimplemented
    else if ¬(alg = .rc4 ↔ a.mode = .rc4Stream) then some .paramError
    else if a.mode = .xts ∧ c.blockSize alg ≠ 16 then some .paramError
    else if a.pad = .pkcs7 ∧ a.mode ≠ .ecb ∧ a.mode ≠ .cbc then some .paramError
    else if c.keyLenOK alg a.key.length = false then some .paramError
    else if a.mode ∈ [Mode.cbc, .cfb, .cfb8, .ctr, .ofb] ∧ ¬∃ v, a.iv = some v ∧ v.length = c.blockSize alg then
      some .paramError
    else if a.mode = .xts ∧ ¬∃ v, a.tweak = some v ∧ v.length = 16 then some .paramError
    else if a.rounds ≠ none ∧ c.varRounds alg = false then some .paramError
    else none

/-- `OutLen(n, fin)` as the table of R156. -/
def outLenTable (s : State) (n : Nat) (fin : Bool) : Nat :=
  let q := (s.plen.toNat + n) / s.bs.toNat
  if s.mode ∈ [Mode.cfb, .cfb8, .ctr, .ofb, .rc4Stream] then n
  else if s.pad = .none then q * s.bs.toNat
  else if s.dir = .encrypt then (if fin then (q + 1) * s.bs.toNat else q * s.bs.toNat)
  else (if fin then q * s.bs.toNat else (q - 1) * s.bs.toNat)

/-- `PLEN` after an UPDATE of `n` bytes, the table of R175. -/
def plenAfter (s : State) (n : Nat) : Nat :=
  if s.mode ∈ [Mode.cfb, .cfb8, .ctr, .ofb, .rc4Stream] then 0
  else if s.dir = .decrypt ∧ s.pad = .pkcs7 then
    (if s.plen.toNat + n < s.bs.toNat then s.plen.toNat + n else s.bs.toNat + (s.plen.toNat + n) % s.bs.toNat)
  else (s.plen.toNat + n) % s.bs.toNat

/-- A fold that carries a value along a list and collects one output an item. -/
def scan {σ α β : Type} (f : σ → α → σ × β) : σ → List α → σ × List β
  | v, [] => (v, [])
  | v, x :: rest => ((scan f (f v x).1 rest).1, (f v x).2 :: (scan f (f v x).1 rest).2)

/-- What a mode does to one unit under its chain value, as textbooks write it: the next chain value and the output
(R202 to R204, R206, R208, R209, R220). The unit is one whole block, or, in CFB, OFB and CTR, the part of a block that
an input ends on: CFB then overwrites only the first bytes of its feedback register. CFB8 and RC4-stream have no block
form. -/
def blockRule (c : Config) (s : State) (v b : List Byte) : List Byte × List Byte :=
  let e := encBlock c s.alg s.keySched
  let d := decBlock c s.alg s.keySched
  match s.mode, s.dir with
  | .ecb, .encrypt => (v, e b)
  | .ecb, .decrypt => (v, d b)
  | .cbc, .encrypt => (e (xorBytes b v), e (xorBytes b v))
  | .cbc, .decrypt => (b, xorBytes (d b) v)
  | .xts, .encrypt => (mulAlpha v, xorBytes (e (xorBytes b v)) v)
  | .xts, .decrypt => (mulAlpha v, xorBytes (d (xorBytes b v)) v)
  | .cfb, .encrypt => (xorBytes b (e v) ++ v.drop b.length, xorBytes b (e v))
  | .cfb, .decrypt => (b ++ v.drop b.length, xorBytes b (e v))
  | .ofb, _ => (e v, xorBytes b (e v))
  | .ctr, _ => (ctrInc s.ctrBE v, xorBytes b (e v))
  | .cfb8, _ => (v, b)
  | .rc4Stream, _ => (v, b)

/-- CFB8 on one byte (R207). -/
def cfb8Rule (c : Config) (s : State) (v : List Byte) (x : Byte) : List Byte × Byte :=
  let y := x ^^^ (encBlock c s.alg s.keySched v).headD 0
  (v.drop 1 ++ [if s.dir = .encrypt then y else x], y)

/-- RC4-stream on one byte (R230). -/
def rc4Rule (c : Config) (s : State) (k : KS) (x : Byte) : KS × Byte :=
  ((c.streamStep s.alg k).2, x ^^^ (c.streamStep s.alg k).1)

/-- The registers after a class B error (R264): message state zeroed, `ST` is `ERRORED`, the rest kept. -/
def erroredFrom (s : State) : State :=
  { s with
    st := .errored
    pend := Vector.replicate 31 0
    plen := 0
    kstr := Vector.replicate 16 0
    kpos := 0
    ivt := Vector.replicate 16 0
    ivt0 := Vector.replicate 16 0
    sstate := ksZero
    total := 0 }

/-- The registers after `LoadIV(v)` and `ST <- ACTIVE` (R135). -/
def loadedFrom (c : Config) (s : State) (v : List Byte) : State :=
  { s with
    st := .active
    pend := Vector.replicate 31 0
    plen := 0
    total := 0
    kstr := Vector.replicate 16 0
    kpos := 0
    ivt0 := if s.mode = .ecb ∨ s.mode = .rc4Stream then Vector.replicate 16 0 else fit 16 v
    ivt :=
      if s.mode = .ecb ∨ s.mode = .rc4Stream then Vector.replicate 16 0
      else if s.mode = .xts then c.xtsTweakInit s.alg s.keySched (fit 16 v)
      else fit 16 v
    sstate := if s.mode = .rc4Stream then s.keySched else ksZero }

/-- The registers after a successful FINAL, apart from `IVT` (R185). -/
def finishedFrom (s : State) : State :=
  { s with st := .finalized, pend := Vector.replicate 31 0, plen := 0, kstr := Vector.replicate 16 0, kpos := 0 }

/-- A sequence as an unsigned integer in a byte order (R210). -/
def intOf : Endian → List Byte → Nat
  | .little, v => leNat v
  | .big, v => v.foldl (fun acc b => acc * 256 + b.toNat) 0

/-- The byte-wise form of the little-endian increment (R210): add 1, stop at the first byte that does not wrap. -/
def incBytes : List Byte → List Byte
  | [] => []
  | b :: rest => if b = 255 then 0 :: incBytes rest else (b + 1) :: rest

/-- The byte-wise form of the increment in either order (R210). -/
def incBytewise : Endian → List Byte → List Byte
  | .little, v => incBytes v
  | .big, v => (incBytes v.reverse).reverse

end Sys2Proof.Claims

open Sys2Proof Sys2Proof.Machine Sys2Proof.Claims

/-! ### Encoding -/

/-- Decoding the packet of a well-formed command gives the command back (R90 to R105, R114). -/
def Obligations.DecodeUndoesEncode : Prop := ∀ i : Instr, i.WellFormed → decode (encode i) = .instr i

/-- A packet that decodes is the packet of the command it decodes to, so no bit of it is ignored (R106, R107). -/
def Obligations.EncodeUndoesDecode : Prop :=
  ∀ (pkt : List Byte) (i : Instr), decode pkt = .instr i → i.WellFormed ∧ encode i = pkt

/-- The rows of the opcode table express steps 2 and 3 of decoding, and no descriptor matches two rows (R106). -/
def Obligations.OpcodeTableIsStepsTwoAndThree : Prop :=
  ∀ pkt : List Byte, 8 ≤ pkt.length →
    ((∃ row ∈ opcodeRows, matchesRow (leNat (pkt.take 8)) row)
        ↔ (decode pkt ≠ .reservedOpcode ∧ decode pkt ≠ .mustBeZero))
      ∧ ∀ r ∈ opcodeRows, ∀ r' ∈ opcodeRows,
          matchesRow (leNat (pkt.take 8)) r → matchesRow (leNat (pkt.take 8)) r' → r = r'

/-- Four packets of vector V1, written out, decode to the commands they stand for. -/
def Obligations.SampleWordsDecode : Prop :=
  decode [0x02, 0, 0, 0, 0x03, 0, 0, 0, 0xaa, 0xbb, 0xcc] = .instr (.update [0xaa, 0xbb, 0xcc])
    ∧ decode [0x03, 0, 0, 0, 0, 0, 0, 0] = .instr .final
    ∧ decode [0x05, 0, 0x01, 0, 0x0b, 0, 0, 0] = .instr (.getOutLen 11 true)
    ∧ decode [0x41, 0x38, 0, 0, 0x08, 0, 0x08, 0, 1, 2, 3, 4, 5, 6, 7, 8, 0x10, 0x11, 0x12, 0x13, 0x14, 0x15, 0x16, 0x17]
      = .instr (.create
          { dir := .encrypt, pad := .none, alg := .known .des, mode := .ctr, ctrBE := .big, rounds := none,
            key := [1, 2, 3, 4, 5, 6, 7, 8], iv := some [0x10, 0x11, 0x12, 0x13, 0x14, 0x15, 0x16, 0x17], tweak := none })

/-- A response packet read by its layout gives its four fields back (R110). -/
def Obligations.ResponseReadsBack : Prop :=
  ∀ (status : Status) (data : List Byte) (value : Nat), data.length < 2 ^ 32 → value < 2 ^ 32 →
    readResponse (responsePacket status data value) = ⟨status.code, data.length, value, data⟩

/-! ### The port and the step -/

/-- When the packet at the head of the port decodes to a command, the step is `exec` of it on the state whose port has
moved on. -/
def Obligations.StepRunsDecodedCommand : Prop :=
  ∀ (s : State) (pkt : List Byte) (later : List PortEvent) (i : Instr),
    s.cmdPort = .packet pkt :: later → decode pkt = .instr i → step s = exec i { s with cmdPort := later }

/-- A malformed packet is answered `ParamError`, in any state, and changes no register (R106, R262). -/
def Obligations.MalformedPacketChangesNothing : Prop :=
  ∀ (s : State) (pkt : List Byte) (later : List PortEvent),
    s.cmdPort = .packet pkt :: later → (∀ i, decode pkt ≠ .instr i) →
      step s = .next { s with cmdPort := later, rspPort := s.rspPort ++ [[1, 0, 0, 0, 0, 0, 0, 0, 0, 0, 0, 0]] }

/-- Hardware reset gives every register its reset value, whatever the state, and no response (R43, R290, R291). How the
event reaches the engine is the model's choice (log entry 7). -/
def Obligations.HardwareResetStep : Prop :=
  ∀ (s : State) (later : List PortEvent), s.cmdPort = .hardwareReset :: later →
    step s = .next
      { st := .empty, dir := .encrypt, pad := .none, alg := .aes, mode := .ecb, ctrBE := .little, bs := 0, keySched := ksZero,
        ivt0 := Vector.replicate 16 0, ivt := Vector.replicate 16 0, kstr := Vector.replicate 16 0, kpos := 0, sstate := ksZero,
        pend := Vector.replicate 31 0, plen := 0, total := 0, cmdPort := later, rspPort := [] }

/-- With nothing on the port the engine holds its registers (R275). The model's choice (log entry 6). -/
def Obligations.IdleStep : Prop := ∀ s : State, s.cmdPort = [] → step s = .next s

/-- The table's word placed by `withFetchWord` is the command the next step runs. The model's bridge (log entry 12). -/
def Obligations.FetchWordRuns : Prop :=
  ∀ (s : State) (nbits w : Nat) (i : Instr), decodeTableWord nbits w = some i → step (s.withFetchWord nbits w) = exec i s

/-! ### Invariants -/

/-- The state after reset has the invariants (R38, R43). -/
def Obligations.ResetHasInvariant : Prop := Inv engine State.reset

/-- Every step keeps the invariants of R38, which the spec derives from its rules (R276: they are theorems of them).
The clauses on the zero bytes behind `BS` and `PLEN` rest on the model's register layout (log entry 2). -/
def Obligations.StepKeepsInvariant : Prop := ∀ s t : State, Inv engine s → step s = .next t → Inv engine t

/-- The invariants are kept under every algorithm table that R70 allows, not only the default one. -/
def Obligations.LegalTableKeepsInvariant : Prop :=
  ∀ (c : Config) (s t : State), c.Legal → Inv c s → serve (execWith c) s = .next t → Inv c t

/-- From a state with the invariants no step stops the machine (R250, R276). -/
def Obligations.StepGoesOn : Prop := ∀ s : State, Inv engine s → GoesOn (step s)

/-- The default algorithm table meets R70. The table is the spec's general knowledge (log entry 3). -/
def Obligations.DefaultTableLegal : Prop := engine.Legal

/-- Registers that break R38 stop an admitted UPDATE, FINAL or GETOUTLEN. The model's choice (log entry 8). -/
def Obligations.UnsoundRegistersStop : Prop :=
  ∀ (s : State) (i : Instr), s.sound = false →
    ((∃ input, i = .update input) ∨ i = .final ∨ ∃ n fin, i = .getOutLen n fin) → admitted s.st i →
      exec i s = .fault .invariantViolation

/-! ### Responses, admission, the session state machine -/

/-- Every command that is answered is answered once: one response of at most `2^32 - 1` data bytes, with no data and
no value on an error, and with a status the engine can raise (R110, R250, R260; `93_implementation_defined.md` I10).
No command touches the command port. -/
def Obligations.EveryAnswerIsOneResponse : Prop :=
  ∀ (i : Instr) (s t : State), exec i s = .next t →
    ∃ status data value, t.rspPort = s.rspPort ++ [responsePacket status data value] ∧ t.cmdPort = s.cmdPort
      ∧ data.length < 2 ^ 32 ∧ value < 2 ^ 32
      ∧ (status ≠ .success → data = [] ∧ value = 0)
      ∧ status ∈ [Status.success, .paramError, .decodeError, .unimplemented, .overflow]
      ∧ (data ≠ [] → (∃ input, i = .update input) ∨ i = .final)
      ∧ (value ≠ 0 → ∃ n fin, i = .getOutLen n fin)

/-- A command that `ST` does not admit is answered `ParamError` with no data and changes no register (R131). -/
def Obligations.UnadmittedCommandChangesNothing : Prop :=
  ∀ (i : Instr) (s : State), ¬admitted s.st i → exec i s = .next (s.respond .paramError [] 0)

/-- `ST` moves and the status is as the cells of R130 say. -/
def Obligations.SessionTransitions : Prop :=
  ∀ (i : Instr) (s t : State), exec i s = .next t →
    ∃ status data value, t.rspPort = s.rspPort ++ [responsePacket status data value]
      ∧ (status, t.st) ∈ transitions s.st i

/-- The configuration registers and the key schedule are written by a successful CREATE, zeroed by RELEASE, and changed
by nothing else (R22 to R28). -/
def Obligations.ConfigurationIsImmutable : Prop :=
  ∀ (i : Instr) (s t : State), exec i s = .next t →
    sameConfiguration s t
      ∨ ((∃ a, i = .create a) ∧ s.st = .empty ∧ t.st = .active)
      ∨ (i = .release ∧ sameConfiguration State.reset t)

/-- A command that enters `ERRORED` is an UPDATE or FINAL issued in `ACTIVE`; it leaves the registers R264 says, and
one response (R263, R264). -/
def Obligations.ErrorEntryClears : Prop :=
  ∀ (i : Instr) (s t : State), exec i s = .next t → t.st = .errored → s.st ≠ .errored →
    s.st = .active ∧ ((∃ input, i = .update input) ∨ i = .final)
      ∧ ∃ status, status ≠ .success ∧ t = (erroredFrom s).respond status [] 0

/-- What a command answers, and the registers it leaves, depend on the registers only, not on what the ports hold. -/
def Obligations.RegistersDetermineAnswers : Prop :=
  ∀ (i : Instr) (s t s' : State), sameRegisters s t → exec i s = .next s' →
    ∃ t' packet, exec i t = .next t' ∧ sameRegisters s' t' ∧ s'.rspPort = s.rspPort ++ [packet]
      ∧ t'.rspPort = t.rspPort ++ [packet]

/-! ### CREATE -/

/-- CREATE in `EMPTY` with every check of R133 met makes the session: R134 and R135. -/
def Obligations.CreateCompletes : Prop :=
  ∀ (a : CreateArgs) (alg : Alg) (s : State), s.st = .empty → a.alg = .known alg →
    engine.algImpl alg = true → engine.modeImpl a.mode = true →
    (alg = .rc4 ↔ a.mode = .rc4Stream) →
    (a.mode = .xts → engine.blockSize alg = 16) →
    (a.pad = .pkcs7 → a.mode = .ecb ∨ a.mode = .cbc) →
    engine.keyLenOK alg a.key.length = true →
    (a.mode ∈ [Mode.cbc, .cfb, .cfb8, .ctr, .ofb] → ∃ v, a.iv = some v ∧ v.length = engine.blockSize alg) →
    (a.mode = .xts → ∃ v, a.tweak = some v ∧ v.length = 16) →
    (a.rounds ≠ none → engine.varRounds alg = true) →
      exec (.create a) s = .next
        ((loadedFrom engine
            { s with
              dir := a.dir, pad := a.pad, alg := alg, mode := a.mode, ctrBE := a.ctrBE,
              bs := BitVec.ofNat 5 (engine.blockSize alg), keySched := engine.schedule alg a.key a.rounds }
            (if a.mode = .xts then a.tweak.getD [] else a.iv.getD [])).respond .success [] 0)

/-- Under any configuration, the first check of R133 that fails decides the status of a CREATE in `EMPTY`, and the
command changes no register. -/
def Obligations.CreateFirstFailedCheck : Prop :=
  ∀ (c : Config) (a : CreateArgs) (s : State) (status : Status), s.st = .empty → createVerdict c a = some status →
    execWith c (.create a) s = .next (s.respond status [] 0)

/-- Under any configuration, a CREATE in `EMPTY` with no failed check makes the session `ACTIVE` and keeps the ports'
discipline: one `Success` response, no data. -/
def Obligations.CreateSucceedsOtherwise : Prop :=
  ∀ (c : Config) (a : CreateArgs) (s : State), s.st = .empty → createVerdict c a = none →
    ∃ t, execWith c (.create a) s = .next t ∧ t.st = .active ∧ t.rspPort = s.rspPort ++ [responsePacket .success [] 0]

/-! ### RESET and RELEASE -/

/-- RESET of a live session, with an IV of `BS` bytes where the mode needs one, re-arms it: R140 and R135. -/
def Obligations.ResetCompletes : Prop :=
  ∀ (iv : Option (List Byte)) (s : State), s.st ≠ .empty →
    (s.mode ≠ .ecb → s.mode ≠ .rc4Stream → ∃ v, iv = some v ∧ v.length = s.bs.toNat) →
      exec (.reset iv) s = .next ((loadedFrom engine s (iv.getD [])).respond .success [] 0)

/-- RESET without the IV the mode needs, or with one of another length, changes no register (R140). -/
def Obligations.ResetWithoutIVChangesNothing : Prop :=
  ∀ (iv : Option (List Byte)) (s : State), s.st ≠ .empty → s.mode ≠ .ecb → s.mode ≠ .rc4Stream →
    (¬∃ v, iv = some v ∧ v.length = s.bs.toNat) → exec (.reset iv) s = .next (s.respond .paramError [] 0)

/-- After a successful RESET everything the engine answers, to any sequence of commands, depends on the configuration,
the key schedule and the new IV only: two sessions that agree on these cannot be told apart (R140 case (e)). -/
def Obligations.ResetForgetsTheMessage : Prop :=
  ∀ (later : List Instr) (iv : Option (List Byte)) (s t u : State) (answers : List Response),
    s.st ≠ .empty → t.st ≠ .empty → sameConfiguration s t →
    (s.mode ≠ .ecb → s.mode ≠ .rc4Stream → ∃ v, iv = some v ∧ v.length = s.bs.toNat) →
    issueAll exec (.reset iv :: later) s = some (u, answers) →
      ∃ v, issueAll exec (.reset iv :: later) t = some (v, answers) ∧ sameRegisters u v

/-- RELEASE of a live session gives every register its reset value (R145, R43). -/
def Obligations.ReleaseCompletes : Prop :=
  ∀ s : State, s.st ≠ .empty →
    exec .release s = .next
      ({ st := .empty, dir := .encrypt, pad := .none, alg := .aes, mode := .ecb, ctrBE := .little, bs := 0, keySched := ksZero,
         ivt0 := Vector.replicate 16 0, ivt := Vector.replicate 16 0, kstr := Vector.replicate 16 0, kpos := 0, sstate := ksZero,
         pend := Vector.replicate 31 0, plen := 0, total := 0, cmdPort := s.cmdPort, rspPort := s.rspPort : State }.respond
        .success [] 0)

/-! ### GETOUTLEN -/

/-- GETOUTLEN answers the bound of R156 where it fits 32 bits, and changes no register (R155). -/
def Obligations.GetOutLenCompletes : Prop :=
  ∀ (n : BitVec 32) (fin : Bool) (s : State), s.st ≠ .empty → s.sound = true → outLenTable s n.toNat fin ≤ 2 ^ 32 - 1 →
    exec (.getOutLen n fin) s = .next (s.respond .success [] (outLenTable s n.toNat fin))

/-- GETOUTLEN answers `Overflow` where the bound does not fit 32 bits, and changes no register (R157). -/
def Obligations.GetOutLenOverflow : Prop :=
  ∀ (n : BitVec 32) (fin : Bool) (s : State), s.st ≠ .empty → s.sound = true → 2 ^ 32 - 1 < outLenTable s n.toNat fin →
    exec (.getOutLen n fin) s = .next (s.respond .overflow [] 0)

/-- GETOUTLEN answers `Overflow` only in a true block mode and only for `ADDLEN >= 2^32 - 31` (R157). -/
def Obligations.OutLenOverflowRange : Prop :=
  ∀ (n : BitVec 32) (fin : Bool) (s : State), exec (.getOutLen n fin) s = .next (s.respond .overflow [] 0) →
    s.mode ∈ [Mode.ecb, .cbc, .xts] ∧ 2 ^ 32 - 31 ≤ n.toNat

/-! ### UPDATE -/

/-- An admitted UPDATE without overflow succeeds, emits the number of bytes R175 says, leaves the `PLEN` R175 says, and
counts its input in `TOTAL` (R170; R175, which the spec derives from R173 and R174). -/
def Obligations.UpdateCompletes : Prop :=
  ∀ (input : List Byte) (s : State), s.st = .active → s.sound = true → s.total.toNat + input.length ≤ 2 ^ 64 - 1 →
    outLenTable s input.length false ≤ 2 ^ 32 - 1 →
      ∃ t data, exec (.update input) s = .next t ∧ t.rspPort = s.rspPort ++ [responsePacket .success data 0]
        ∧ data.length = outLenTable s input.length false ∧ t.plen.toNat = plenAfter s input.length
        ∧ t.total.toNat = s.total.toNat + input.length ∧ t.st = .active

/-- An UPDATE that would overflow `TOTAL` or the response's length fails with `Overflow` and enters `ERRORED`; no byte
is processed (R172, R264). -/
def Obligations.UpdateOverflowEntersErrored : Prop :=
  ∀ (input : List Byte) (s : State), s.st = .active → s.sound = true →
    (2 ^ 64 - 1 < s.total.toNat + input.length ∨ 2 ^ 32 - 1 < outLenTable s input.length false) →
      exec (.update input) s = .next ((erroredFrom s).respond .overflow [] 0)

/-- What a successful UPDATE leaves unchanged (R44, which the spec derives from R21 to R35): the configuration,
`KEYSCHED`, `IVT0`, the command port; in a stream-equivalent mode the buffer; in a true block mode the keystream
registers and `SSTATE`; `IVT` in ECB and RC4-stream; `SSTATE` outside RC4-stream; the keystream registers outside CFB,
OFB and CTR. -/
def Obligations.UpdateFrame : Prop :=
  ∀ (input : List Byte) (s t : State), exec (.update input) s = .next t → t.st = .active →
    sameConfiguration s t ∧ t.ivt0 = s.ivt0 ∧ t.cmdPort = s.cmdPort
      ∧ (s.mode ∈ [Mode.cfb, .cfb8, .ctr, .ofb, .rc4Stream] → t.pend = s.pend ∧ t.plen = s.plen)
      ∧ (s.mode ∉ [Mode.cfb, .ofb, .ctr] → t.kstr = s.kstr ∧ t.kpos = s.kpos)
      ∧ (s.mode ≠ .rc4Stream → t.sstate = s.sstate)
      ∧ (s.mode = .ecb ∨ s.mode = .rc4Stream → t.ivt = s.ivt)

/-- The nearest thing to a no-op: an empty UPDATE in `ACTIVE` succeeds, emits nothing and changes no register (R108,
which the spec derives from R171 and R174). -/
def Obligations.EmptyUpdateChangesNothing : Prop :=
  ∀ s : State, Inv engine s → s.st = .active → exec (.update []) s = .next (s.respond .success [] 0)

/-- An input given in two UPDATEs gives the same output, and leaves the same registers, as the same input in one
(R186, R175). -/
def Obligations.TwoPiecesActAsOne : Prop :=
  ∀ (xs ys : List Byte) (s : State), Inv engine s → s.st = .active →
    s.total.toNat + (xs ++ ys).length ≤ 2 ^ 64 - 1 → outLenTable s (xs ++ ys).length false ≤ 2 ^ 32 - 1 →
      ∃ t u out1 out2, exec (.update xs) s = .next t ∧ t.rspPort = s.rspPort ++ [responsePacket .success out1 0]
        ∧ exec (.update ys) t = .next u ∧ u.rspPort = t.rspPort ++ [responsePacket .success out2 0]
        ∧ exec (.update (xs ++ ys)) s
          = .next { u with rspPort := s.rspPort ++ [responsePacket .success (out1 ++ out2) 0] }

/-- Fragmentation invariance (R186): however the input of a message is cut into UPDATEs (empty ones among them, or none
at all), the concatenation of the outputs of all UPDATEs and of FINAL, the status of FINAL, and the registers left are
those of one UPDATE of the whole input and FINAL. The spec derives R186 from R173 and R174; that the
registers agree is more than it says, and an input whose whole does not fit one UPDATE is left out. -/
def Obligations.FragmentationInvariance : Prop :=
  ∀ (pieces : List (List Byte)) (s : State), Inv engine s → s.st = .active →
    s.total.toNat + pieces.flatten.length ≤ 2 ^ 64 - 1 → outLenTable s pieces.flatten.length false ≤ 2 ^ 32 - 1 →
      ∃ t u answers final whole last,
        issueAll exec (pieces.map Instr.update ++ [.final]) s = some (t, answers ++ [final])
          ∧ issueAll exec [.update pieces.flatten, .final] s = some (u, [whole, last])
          ∧ (∀ r ∈ answers, r.status = 0) ∧ whole.status = 0 ∧ final.status = last.status
          ∧ (answers.map Response.data).flatten ++ final.data = whole.data ++ last.data
          ∧ sameRegisters t u

/-- UPDATE in ECB, CBC and XTS outside withholding mode: of the bytes pending and the input together, each whole block
goes through the mode's block rule under the running chain value, and the incomplete block behind them is what `PEND`
holds (R174, R34, R202, R203, R204, R220; the CBC and XTS formulas are the spec's general knowledge, log entry 9). -/
def Obligations.UpdateTrueBlockModes : Prop :=
  ∀ (blocks : List (List Byte)) (tail input : List Byte) (s : State), Inv engine s → s.st = .active →
    s.mode ∈ [Mode.ecb, .cbc, .xts] → (s.pad = .none ∨ s.dir = .encrypt) →
    s.pend.toList.take s.plen.toNat ++ input = blocks.flatten ++ tail → (∀ b ∈ blocks, b.length = s.bs.toNat) →
    tail.length < s.bs.toNat → s.total.toNat + input.length ≤ 2 ^ 64 - 1 → blocks.flatten.length ≤ 2 ^ 32 - 1 →
      exec (.update input) s = .next
        ({ s with
            ivt := fit 16 (scan (blockRule engine s) (s.ivt.toList.take s.bs.toNat) blocks).1
            pend := fit 31 tail
            plen := BitVec.ofNat 5 tail.length
            total := BitVec.ofNat 64 (s.total.toNat + input.length) }.respond .success
          (scan (blockRule engine s) (s.ivt.toList.take s.bs.toNat) blocks).2.flatten 0)

/-- UPDATE in withholding mode: of the bytes pending and the input together, the last whole block and the incomplete one
behind it are kept in `PEND` as ciphertext, and the blocks before them go through the block rule; fewer bytes than one
block are all kept (R174, R34; the CBC formula is the spec's general knowledge, log entry 9). -/
def Obligations.UpdateWithholdsLastBlock : Prop :=
  ∀ (blocks : List (List Byte)) (kept input : List Byte) (s : State), Inv engine s → s.st = .active → s.dir = .decrypt →
    s.pad = .pkcs7 → s.pend.toList.take s.plen.toNat ++ input = blocks.flatten ++ kept →
    (∀ b ∈ blocks, b.length = s.bs.toNat) → (blocks = [] ∨ s.bs.toNat ≤ kept.length) → kept.length < 2 * s.bs.toNat →
    s.total.toNat + input.length ≤ 2 ^ 64 - 1 → blocks.flatten.length ≤ 2 ^ 32 - 1 →
      exec (.update input) s = .next
        ({ s with
            ivt := fit 16 (scan (blockRule engine s) (s.ivt.toList.take s.bs.toNat) blocks).1
            pend := fit 31 kept
            plen := BitVec.ofNat 5 kept.length
            total := BitVec.ofNat 64 (s.total.toNat + input.length) }.respond .success
          (scan (blockRule engine s) (s.ivt.toList.take s.bs.toNat) blocks).2.flatten 0)

/-- UPDATE in CFB, OFB and CTR from `KPOS = 0`, on whole blocks and what part of a block follows them: the byte-by-byte
rules make the block forms of the modes, `KSTR` is the encryption of the chain value the last unit was made under (with
no unit it is as before), and `KPOS` is the length of the trailing part (R31, R32, R205, R206, R208, R209; the CFB and
OFB formulas are the spec's general knowledge, log entry 9). What a session answers from another
`KPOS` follows by `TwoPiecesActAsOne`. -/
def Obligations.UpdateKeystreamModes : Prop :=
  ∀ (units : List (List Byte)) (s : State), Inv engine s → s.st = .active → s.mode ∈ [Mode.cfb, .ofb, .ctr] →
    s.kpos = 0 → (∀ u ∈ units, 1 ≤ u.length ∧ u.length ≤ s.bs.toNat) → (∀ u ∈ units.dropLast, u.length = s.bs.toNat) →
    s.total.toNat + units.flatten.length ≤ 2 ^ 64 - 1 → units.flatten.length ≤ 2 ^ 32 - 1 →
      exec (.update units.flatten) s = .next
        ({ s with
            ivt := fit 16 (scan (blockRule engine s) (s.ivt.toList.take s.bs.toNat) units).1
            kstr :=
              if units = [] then s.kstr
              else fit 16 (encBlock engine s.alg s.keySched
                (scan (blockRule engine s) (s.ivt.toList.take s.bs.toNat) units.dropLast).1)
            kpos := BitVec.ofNat 4 (units.flatten.length % s.bs.toNat)
            total := BitVec.ofNat 64 (s.total.toNat + units.flatten.length) }.respond .success
          (scan (blockRule engine s) (s.ivt.toList.take s.bs.toNat) units).2.flatten 0)

/-- UPDATE in CFB8: each byte under the leading byte of the encrypted shift register (R207; the shift is the spec's
general knowledge, log entry 9). -/
def Obligations.UpdateCfb8 : Prop :=
  ∀ (input : List Byte) (s : State), Inv engine s → s.st = .active → s.mode = .cfb8 →
    s.total.toNat + input.length ≤ 2 ^ 64 - 1 → input.length ≤ 2 ^ 32 - 1 →
      exec (.update input) s = .next
        ({ s with
            ivt := fit 16 (scan (cfb8Rule engine s) (s.ivt.toList.take s.bs.toNat) input).1
            total := BitVec.ofNat 64 (s.total.toNat + input.length) }.respond .success
          (scan (cfb8Rule engine s) (s.ivt.toList.take s.bs.toNat) input).2 0)

/-- UPDATE in RC4-stream: each byte under the next keystream byte (R230). -/
def Obligations.UpdateRc4Stream : Prop :=
  ∀ (input : List Byte) (s : State), s.st = .active → s.sound = true → s.mode = .rc4Stream →
    s.total.toNat + input.length ≤ 2 ^ 64 - 1 → input.length ≤ 2 ^ 32 - 1 →
      exec (.update input) s = .next
        ({ s with
            sstate := (scan (rc4Rule engine s) s.sstate input).1
            total := BitVec.ofNat 64 (s.total.toNat + input.length) }.respond .success
          (scan (rc4Rule engine s) s.sstate input).2 0)

/-- In CFB, OFB and CTR `KPOS` moves on by the length of the input, modulo `BS` (R205). -/
def Obligations.KeystreamPosition : Prop :=
  ∀ (input : List Byte) (s t : State), s.sound = true → s.mode ∈ [Mode.cfb, .ofb, .ctr] →
    exec (.update input) s = .next t → t.st = .active →
      t.kpos.toNat = (s.kpos.toNat + input.length) % s.bs.toNat

/-- In CTR the two byte orders give the same output up to the end of the first keystream block
(`90_conflicts.md` C4, R209). -/
def Obligations.CtrOrdersAgreeOnFirstBlock : Prop :=
  ∀ (input : List Byte) (s t u : State) (out : List Byte), s.sound = true → s.st = .active → s.mode = .ctr → s.kpos = 0 →
    input.length ≤ s.bs.toNat → exec (.update input) { s with ctrBE := .little } = .next t →
    t.rspPort = s.rspPort ++ [responsePacket .success out 0] →
    exec (.update input) { s with ctrBE := .big } = .next u →
      u.rspPort = s.rspPort ++ [responsePacket .success out 0]

/-- The bound of GETOUTLEN with `FIN = 0` is exactly what the next UPDATE emits (R158, which the spec derives from
R156, R175 and R185). -/
def Obligations.UpdateEmitsThePrediction : Prop :=
  ∀ (n : BitVec 32) (input : List Byte) (s : State), s.st = .active → s.sound = true → input.length = n.toNat →
    s.total.toNat + input.length ≤ 2 ^ 64 - 1 → outLenTable s n.toNat false ≤ 2 ^ 32 - 1 →
      ∃ t data, exec (.getOutLen n false) s = .next (s.respond .success [] data.length)
        ∧ exec (.update input) s = .next t ∧ t.rspPort = s.rspPort ++ [responsePacket .success data 0]

/-! ### FINAL -/

/-- FINAL in a stream-equivalent mode emits nothing and succeeds (R181, R185). -/
def Obligations.FinalStreamCompletes : Prop :=
  ∀ s : State, s.st = .active → s.sound = true → s.mode ∈ [Mode.cfb, .cfb8, .ctr, .ofb, .rc4Stream] →
    exec .final s = .next ((finishedFrom s).respond .success [] 0)

/-- FINAL in a true block mode without padding: with nothing pending it succeeds with no output; with bytes pending it
fails with `ParamError`, discards them and enters `ERRORED` (R184, R185, R264). -/
def Obligations.FinalWithoutPadding : Prop :=
  ∀ s : State, s.st = .active → s.sound = true → s.mode ∈ [Mode.ecb, .cbc, .xts] → s.pad = .none →
    exec .final s = .next
      (if s.plen = 0 then (finishedFrom s).respond .success [] 0 else (erroredFrom s).respond .paramError [] 0)

/-- FINAL on encrypt with PKCS7 emits one block: the pending bytes and `N` bytes of value `N`, through the mode's block
rule (R182, R185, R240; the CBC formula in `blockRule` is the spec's general knowledge, R203, log entry 9). -/
def Obligations.FinalEncryptPads : Prop :=
  ∀ s : State, Inv engine s → s.st = .active → s.pad = .pkcs7 → s.dir = .encrypt →
    exec .final s = .next
      ((finishedFrom
          { s with
            ivt := fit 16 (blockRule engine s (s.ivt.toList.take s.bs.toNat)
              (s.pend.toList.take s.plen.toNat ++
                List.replicate (s.bs.toNat - s.plen.toNat) (BitVec.ofNat 8 (s.bs.toNat - s.plen.toNat)))).1 }).respond
        .success
        (blockRule engine s (s.ivt.toList.take s.bs.toNat)
          (s.pend.toList.take s.plen.toNat ++
            List.replicate (s.bs.toNat - s.plen.toNat) (BitVec.ofNat 8 (s.bs.toNat - s.plen.toNat)))).2 0)

/-- FINAL on decrypt with PKCS7: the withheld block is decrypted, and the payload before its `N` bytes of value `N` is
emitted (R183, R185, R241; the CBC formula in `blockRule` is the spec's general knowledge, R204, log entry 9). -/
def Obligations.FinalDecryptUnpads : Prop :=
  ∀ (s : State) (payload : List Byte) (n : Nat), Inv engine s → s.st = .active → s.pad = .pkcs7 → s.dir = .decrypt →
    s.plen = s.bs → 1 ≤ n → n ≤ s.bs.toNat →
    (blockRule engine s (s.ivt.toList.take s.bs.toNat) (s.pend.toList.take s.plen.toNat)).2
      = payload ++ List.replicate n (BitVec.ofNat 8 n) →
      exec .final s = .next
        ((finishedFrom
            { s with
              ivt := fit 16
                (blockRule engine s (s.ivt.toList.take s.bs.toNat) (s.pend.toList.take s.plen.toNat)).1 }).respond
          .success payload 0)

/-- FINAL on decrypt with PKCS7 fails with `DecodeError`, with no data, and enters `ERRORED` when the withheld block does
not decrypt to a validly padded one (R183, R256, R264; the CBC formula in `blockRule` is the spec's general knowledge,
R204, log entry 9). -/
def Obligations.FinalBadPaddingErrs : Prop :=
  ∀ s : State, s.st = .active → s.sound = true → s.pad = .pkcs7 → s.dir = .decrypt → s.plen = s.bs →
    (¬∃ (payload : List Byte) (n : Nat), 1 ≤ n ∧ n ≤ s.bs.toNat ∧
      (blockRule engine s (s.ivt.toList.take s.bs.toNat) (s.pend.toList.take s.plen.toNat)).2
        = payload ++ List.replicate n (BitVec.ofNat 8 n)) →
      exec .final s = .next ((erroredFrom s).respond .decodeError [] 0)

/-- FINAL on decrypt with PKCS7 fails with `ParamError` and enters `ERRORED` when the input was not a whole, non-zero
number of blocks (R183, R264). -/
def Obligations.FinalRaggedCiphertextErrs : Prop :=
  ∀ s : State, s.st = .active → s.sound = true → s.pad = .pkcs7 → s.dir = .decrypt → s.plen ≠ s.bs →
    exec .final s = .next ((erroredFrom s).respond .paramError [] 0)

/-- An UPDATE and the FINAL after it emit together at most the bound of GETOUTLEN with `FIN = 1`, and exactly that many
bytes outside withholding mode (R158, which the spec derives from R156, R175 and R185). -/
def Obligations.UpdateAndFinalStayWithinBound : Prop :=
  ∀ (input out1 out2 : List Byte) (s t u : State), Inv engine s → s.st = .active →
    exec (.update input) s = .next t → t.st = .active → t.rspPort = s.rspPort ++ [responsePacket .success out1 0] →
    exec .final t = .next u → u.st = .finalized → u.rspPort = t.rspPort ++ [responsePacket .success out2 0] →
      out1.length + out2.length ≤ outLenTable s input.length true
        ∧ (s.pad = .none ∨ s.dir = .encrypt → out1.length + out2.length = outLenTable s input.length true)

/-! ### The Padding Policy and the arithmetic of the modes -/

/-- `Unpad` accepts exactly the blocks that end in `N` bytes of value `N`, with `N` in `1..bs`, and returns what stands
before them (R241). -/
def Obligations.UnpadAcceptsExactlyPadded : Prop :=
  ∀ (bs : Nat) (b payload : List Byte), 0 < bs → bs ≤ 255 → b.length = bs →
    (pkcs7Unpad b bs = some payload ↔ ∃ n, 1 ≤ n ∧ n ≤ bs ∧ b = payload ++ List.replicate n (BitVec.ofNat 8 n))

/-- `Pad` appends `N` bytes of value `N`, with `N` in `1..bs`, and makes a whole block; `Unpad` gives back what was
padded (R240; R241, whose `Unpad(Pad(p, bs), bs) = (p, true)` the spec derives from R240 and R241). -/
def Obligations.UnpadInvertsPad : Prop :=
  ∀ (bs : Nat) (p : List Byte), bs ≤ 255 → p.length < bs →
    (pkcs7Pad p bs).length = bs
      ∧ (∃ n, 1 ≤ n ∧ n ≤ bs ∧ pkcs7Pad p bs = p ++ List.replicate n (BitVec.ofNat 8 n))
      ∧ pkcs7Unpad (pkcs7Pad p bs) bs = some p

/-- `CtrInc` adds one modulo `2^(8*BS)` in the configured byte order, and is the byte-wise increment (R210). -/
def Obligations.CtrIncrement : Prop :=
  ∀ (order : Endian) (v : List Byte),
    (ctrInc order v).length = v.length
      ∧ intOf order (ctrInc order v) = (intOf order v + 1) % 2 ^ (8 * v.length)
      ∧ ctrInc order v = incBytewise order v

/-- `MulAlpha` on 16 bytes is `n' = (2n mod 2^128) xor (0x87 if n >= 2^127 else 0)` (R222, which the spec gives from
general knowledge; log entry 9). -/
def Obligations.MulAlphaArithmetic : Prop :=
  ∀ t : List Byte, t.length = 16 →
    (mulAlpha t).length = 16
      ∧ leNat (mulAlpha t) = (2 * leNat t % 2 ^ 128) ^^^ (if 2 ^ 127 ≤ leNat t then 0x87 else 0)

/-! ### Round trips -/

/-- A decrypting session's block transform undoes an encrypting one's, and both leave the same chain value (R67, R202 to
R204, R220). -/
def Obligations.DecryptUnitUndoesEncryptUnit : Prop :=
  ∀ (c : Config) (m : BlockMode) (s : State) (b : List Byte), s.bs.toNat ≤ 16 → b.length = s.bs.toNat →
    (blockUnit c m { s with dir := .decrypt } (blockUnit c m { s with dir := .encrypt } b).2).2 = b
      ∧ (blockUnit c m { s with dir := .decrypt } (blockUnit c m { s with dir := .encrypt } b).2).1.ivt
        = (blockUnit c m { s with dir := .encrypt } b).1.ivt

/-- In every stream-equivalent mode a decrypting session undoes an encrypting one, for an input of any length, and both
leave the same registers but `DIR` (R206 to R209, R230). -/
def Obligations.StreamRoundTrip : Prop :=
  ∀ (c : Config) (m : StreamMode) (s : State) (input : List Byte),
    (streamPush c m { s with dir := .decrypt } (streamPush c m { s with dir := .encrypt } input).2).2 = input
      ∧ (streamPush c m { s with dir := .decrypt } (streamPush c m { s with dir := .encrypt } input).2).1
        = { (streamPush c m { s with dir := .encrypt } input).1 with dir := .decrypt }

/-- Whatever `ENCRYPT` accepts, `DECRYPT` of its output gives back: for every configuration that R70 allows, every
algorithm, mode, padding, key, IV or tweak, and every length of plaintext (R113, R67; OTP's property S1 as
`90_conflicts.md` C3 restricts it). It is about the commands: a ciphertext of `2^32` bytes is the input of no one UPDATE
packet. -/
def Obligations.MessageRoundTrip : Prop :=
  ∀ (c : Config) (a : CreateArgs) (plain cipher : List Byte) (s t : State), c.Legal → s.st = .empty →
    encryptMessage (execWith c) a plain s = some (t, ⟨0, cipher⟩) →
      ∃ u, decryptMessage (execWith c) a cipher t = some (u, ⟨0, plain⟩)
end

