-- ==== Sys2Proof/Laws/Bytes.lean ====
section
/-!
SUPPORT. Byte order, fixed-size registers, exclusive or, and the primitive as functions on byte sequences.
-/

namespace Sys2Proof

@[simp] theorem zeros_length (n : Nat) : (zeros n).length = n := by simp [zeros]

@[simp] theorem leBytes_length (n v : Nat) : (leBytes n v).length = n := by
  induction n generalizing v with
  | zero => rfl
  | succ n ih => simp [leBytes, ih]

@[simp] theorem u32le_length (v : Nat) : (u32le v).length = 4 := leBytes_length 4 v

theorem leNat_lt (l : List Byte) : leNat l < 256 ^ l.length := by
  induction l with
  | nil => simp [leNat]
  | cons b t ih =>
    have hb := b.isLt
    simp only [leNat, List.length_cons, Nat.pow_succ]
    omega

theorem leNat_leBytes (n v : Nat) : leNat (leBytes n v) = v % 256 ^ n := by
  induction n generalizing v with
  | zero => simp [leBytes, leNat, Nat.mod_one]
  | succ n ih =>
    rw [leBytes, leNat, ih, Nat.pow_succ, Nat.mul_comm (256 ^ n) 256, Nat.mod_mul]
    simp

theorem leNat_leBytes_of_lt {n v : Nat} (h : v < 256 ^ n) : leNat (leBytes n v) = v := by
  rw [leNat_leBytes, Nat.mod_eq_of_lt h]

theorem leBytes_leNat (l : List Byte) : leBytes l.length (leNat l) = l := by
  induction l with
  | nil => rfl
  | cons b t ih =>
    have hb := b.isLt
    have h1 : (b.toNat + 256 * leNat t) / 256 = leNat t := by omega
    have h2 : BitVec.ofNat 8 (b.toNat + 256 * leNat t) = b := by
      apply BitVec.eq_of_toNat_eq
      simp only [BitVec.toNat_ofNat]
      omega
    simp only [List.length_cons, leNat, leBytes, h1, h2, ih]

theorem leNat_u32le {v : Nat} (h : v < 2 ^ 32) : leNat (u32le v) = v := leNat_leBytes_of_lt (by simpa using h)

theorem leNat_append (l m : List Byte) : leNat (l ++ m) = leNat l + 256 ^ l.length * leNat m := by
  induction l with
  | nil => simp [leNat]
  | cons b t ih =>
    simp only [List.cons_append, leNat, ih, List.length_cons, Nat.pow_succ]
    ring

theorem leNat_inj {l m : List Byte} (hlen : l.length = m.length) (h : leNat l = leNat m) : l = m := by
  rw [← leBytes_leNat l, ← leBytes_leNat m, hlen, h]

namespace Machine

@[simp] theorem xorBytes_length (a b : List Byte) : (xorBytes a b).length = min a.length b.length := by
  simp [xorBytes]

theorem xorBytes_cancel : ∀ (a b : List Byte), a.length ≤ b.length → xorBytes (xorBytes a b) b = a
  | [], _, _ => rfl
  | a :: l, b :: m, h => by
    have ih := xorBytes_cancel l m (by simpa using h)
    have hab : a ^^^ b ^^^ b = a := by simp
    simpa [xorBytes, hab] using ih
  | _ :: _, [], h => by simp at h

@[simp] theorem fit_toList (n : Nat) (l : List Byte) : (fit n l).toList = (l ++ zeros n).take n := rfl

theorem fit_toList_take {n : Nat} {l : List Byte} (h : l.length ≤ n) : (fit n l).toList.take l.length = l := by
  rw [fit_toList, List.take_take, Nat.min_eq_left h, List.take_left]

theorem fit_toList_drop {n : Nat} {l : List Byte} :
    (fit n l).toList.drop l.length = zeros (n - l.length) := by
  rw [fit_toList, List.drop_take, List.drop_left]
  simp [zeros]

/-- A register is its first `k` bytes and zeros, if nothing stands behind them. -/
theorem fit_take_of_tail_zero {n k : Nat} (v : Vector Byte n) (hk : k ≤ n) (h : v.toList.drop k = zeros (n - k)) :
    fit n (v.toList.take k) = v := by
  apply Vector.toList_inj.mp
  have hlen : (v.toList.take k).length = k := by simp [hk]
  have hz : (zeros n).take (n - k) = zeros (n - k) := by simp [zeros]
  calc (fit n (v.toList.take k)).toList
      = (v.toList.take k ++ zeros n).take n := rfl
    _ = (v.toList.take k).take n ++ (zeros n).take (n - k) := by rw [List.take_append, hlen]
    _ = v.toList.take k ++ v.toList.drop k := by
        rw [hz, h, List.take_take, Nat.min_eq_right hk]
    _ = v.toList := List.take_append_drop k v.toList

@[simp] theorem vecOf_toList (l : List Byte) : (vecOf l).toList = l := rfl

theorem encBlock_toList (c : Config) (alg : Alg) (ks : KS) {n : Nat} (v : Vector Byte n) :
    encBlock c alg ks v.toList = (c.cipher alg ks n v).toList := by
  obtain ⟨⟨l⟩, rfl⟩ := v
  rfl

theorem decBlock_toList (c : Config) (alg : Alg) (ks : KS) {n : Nat} (v : Vector Byte n) :
    decBlock c alg ks v.toList = ((c.cipher alg ks n).symm v).toList := by
  obtain ⟨⟨l⟩, rfl⟩ := v
  rfl

/-- `EncBlock` returns a block of the size it is given (R67). -/
@[simp] theorem encBlock_length (c : Config) (alg : Alg) (ks : KS) (b : List Byte) :
    (encBlock c alg ks b).length = b.length := by simp [encBlock]

/-- `DecBlock` returns a block of the size it is given (R67). -/
@[simp] theorem decBlock_length (c : Config) (alg : Alg) (ks : KS) (b : List Byte) :
    (decBlock c alg ks b).length = b.length := by simp [decBlock]

/-- R67: `DecBlock` undoes `EncBlock`. -/
@[simp] theorem decBlock_encBlock (c : Config) (alg : Alg) (ks : KS) (b : List Byte) :
    decBlock c alg ks (encBlock c alg ks b) = b := by
  rw [encBlock, decBlock_toList, Equiv.symm_apply_apply, vecOf_toList]

/-- R67: `EncBlock` undoes `DecBlock`. -/
@[simp] theorem encBlock_decBlock (c : Config) (alg : Alg) (ks : KS) (b : List Byte) :
    encBlock c alg ks (decBlock c alg ks b) = b := by
  rw [decBlock, encBlock_toList, Equiv.apply_symm_apply, vecOf_toList]

@[simp] theorem State.enc_length (c : Config) (s : State) (b : List Byte) : (s.enc c b).length = b.length :=
  encBlock_length c s.alg s.keySched b

@[simp] theorem State.dec_length (c : Config) (s : State) (b : List Byte) : (s.dec c b).length = b.length :=
  decBlock_length c s.alg s.keySched b

@[simp] theorem State.dec_enc (c : Config) (s : State) (b : List Byte) : s.dec c (s.enc c b) = b :=
  decBlock_encBlock c s.alg s.keySched b

/-- In a register wide enough the block read is `BS` bytes. -/
theorem State.ivtBytes_length {s : State} (h : s.blockLen ≤ 16) : s.ivtBytes.length = s.blockLen := by
  simp [State.ivtBytes, h]

theorem State.pendBytes_length (s : State) : s.pendBytes.length = s.plen.toNat := by
  have := s.plen.isLt
  simp only [State.pendBytes, List.length_take, Vector.length_toList]
  omega

/-- What is written to `IVT` is read back, if it is one block. -/
theorem State.setIvt_ivtBytes {s : State} {v : List Byte} (hv : v.length = s.blockLen) (h : s.blockLen ≤ 16) :
    (s.setIvt v).ivtBytes = v := by
  have := fit_toList_take (n := 16) (l := v) (by omega)
  rw [hv] at this
  exact this

/-- What is written to `KSTR` is read back, if it is one block. -/
theorem State.setKstr_kstrBytes {s : State} {v : List Byte} (hv : v.length = s.blockLen) (h : s.blockLen ≤ 16) :
    (s.setKstr v).kstrBytes = v := by
  have := fit_toList_take (n := 16) (l := v) (by omega)
  rw [hv] at this
  exact this

/-- What is written to `PEND` is read back, if it fits. -/
theorem State.setPend_pendBytes {s : State} {v : List Byte} (hv : v.length ≤ 31) : (s.setPend v).pendBytes = v := by
  have h5 : (BitVec.ofNat 5 v.length).toNat = v.length := by
    rw [BitVec.toNat_ofNat]
    exact Nat.mod_eq_of_lt (by omega)
  show (fit 31 v).toList.take (BitVec.ofNat 5 v.length).toNat = v
  rw [h5]
  exact fit_toList_take hv

/-- Writing back what `PEND` holds changes nothing, if nothing stands behind it. -/
theorem State.setPend_self {s : State} (h : s.pend.toList.drop s.plen.toNat = zeros (31 - s.plen.toNat)) :
    s.setPend s.pendBytes = s := by
  have hp := s.plen.isLt
  have h1 : fit 31 s.pendBytes = s.pend := fit_take_of_tail_zero s.pend (by omega) h
  have h2 : BitVec.ofNat 5 s.pendBytes.length = s.plen := by
    rw [State.pendBytes_length]
    simp
  unfold State.setPend
  rw [h1, h2]

end Machine

end Sys2Proof
end

