-- ==== Sys2Proof/Laws/State.lean ====
section
/-!
SUPPORT. What each update of the state leaves in each field: one lemma per field per update, true by unfolding the record.
-/

namespace Sys2Proof.Machine

variable (s : State)

/-! ### `setIvt` -/

@[simp] theorem State.setIvt_st (v : List Byte) : (s.setIvt v).st = s.st := rfl
@[simp] theorem State.setIvt_dir (v : List Byte) : (s.setIvt v).dir = s.dir := rfl
@[simp] theorem State.setIvt_pad (v : List Byte) : (s.setIvt v).pad = s.pad := rfl
@[simp] theorem State.setIvt_alg (v : List Byte) : (s.setIvt v).alg = s.alg := rfl
@[simp] theorem State.setIvt_mode (v : List Byte) : (s.setIvt v).mode = s.mode := rfl
@[simp] theorem State.setIvt_ctrBE (v : List Byte) : (s.setIvt v).ctrBE = s.ctrBE := rfl
@[simp] theorem State.setIvt_bs (v : List Byte) : (s.setIvt v).bs = s.bs := rfl
@[simp] theorem State.setIvt_keySched (v : List Byte) : (s.setIvt v).keySched = s.keySched := rfl
@[simp] theorem State.setIvt_ivt0 (v : List Byte) : (s.setIvt v).ivt0 = s.ivt0 := rfl
@[simp] theorem State.setIvt_ivt (v : List Byte) : (s.setIvt v).ivt = fit 16 v := rfl
@[simp] theorem State.setIvt_kstr (v : List Byte) : (s.setIvt v).kstr = s.kstr := rfl
@[simp] theorem State.setIvt_kpos (v : List Byte) : (s.setIvt v).kpos = s.kpos := rfl
@[simp] theorem State.setIvt_sstate (v : List Byte) : (s.setIvt v).sstate = s.sstate := rfl
@[simp] theorem State.setIvt_pend (v : List Byte) : (s.setIvt v).pend = s.pend := rfl
@[simp] theorem State.setIvt_plen (v : List Byte) : (s.setIvt v).plen = s.plen := rfl
@[simp] theorem State.setIvt_total (v : List Byte) : (s.setIvt v).total = s.total := rfl
@[simp] theorem State.setIvt_cmdPort (v : List Byte) : (s.setIvt v).cmdPort = s.cmdPort := rfl
@[simp] theorem State.setIvt_rspPort (v : List Byte) : (s.setIvt v).rspPort = s.rspPort := rfl

@[simp] theorem State.setIvt_blockLen (v : List Byte) : (s.setIvt v).blockLen = s.blockLen := rfl
@[simp] theorem State.setIvt_hold (v : List Byte) : (s.setIvt v).hold = s.hold := rfl
@[simp] theorem State.setIvt_withholding (v : List Byte) : (s.setIvt v).withholding = s.withholding := rfl
@[simp] theorem State.setIvt_enc (v : List Byte) (cfg : Config) : (s.setIvt v).enc cfg = s.enc cfg := rfl
@[simp] theorem State.setIvt_dec (v : List Byte) (cfg : Config) : (s.setIvt v).dec cfg = s.dec cfg := rfl

/-! ### `setIvtByte` -/

@[simp] theorem State.setIvtByte_st (b : Byte) : (s.setIvtByte b).st = s.st := rfl
@[simp] theorem State.setIvtByte_dir (b : Byte) : (s.setIvtByte b).dir = s.dir := rfl
@[simp] theorem State.setIvtByte_pad (b : Byte) : (s.setIvtByte b).pad = s.pad := rfl
@[simp] theorem State.setIvtByte_alg (b : Byte) : (s.setIvtByte b).alg = s.alg := rfl
@[simp] theorem State.setIvtByte_mode (b : Byte) : (s.setIvtByte b).mode = s.mode := rfl
@[simp] theorem State.setIvtByte_ctrBE (b : Byte) : (s.setIvtByte b).ctrBE = s.ctrBE := rfl
@[simp] theorem State.setIvtByte_bs (b : Byte) : (s.setIvtByte b).bs = s.bs := rfl
@[simp] theorem State.setIvtByte_keySched (b : Byte) : (s.setIvtByte b).keySched = s.keySched := rfl
@[simp] theorem State.setIvtByte_ivt0 (b : Byte) : (s.setIvtByte b).ivt0 = s.ivt0 := rfl
@[simp] theorem State.setIvtByte_ivt (b : Byte) : (s.setIvtByte b).ivt = s.ivt.set s.kpos.toNat b (by have := s.kpos.isLt; omega) := rfl
@[simp] theorem State.setIvtByte_kstr (b : Byte) : (s.setIvtByte b).kstr = s.kstr := rfl
@[simp] theorem State.setIvtByte_kpos (b : Byte) : (s.setIvtByte b).kpos = s.kpos := rfl
@[simp] theorem State.setIvtByte_sstate (b : Byte) : (s.setIvtByte b).sstate = s.sstate := rfl
@[simp] theorem State.setIvtByte_pend (b : Byte) : (s.setIvtByte b).pend = s.pend := rfl
@[simp] theorem State.setIvtByte_plen (b : Byte) : (s.setIvtByte b).plen = s.plen := rfl
@[simp] theorem State.setIvtByte_total (b : Byte) : (s.setIvtByte b).total = s.total := rfl
@[simp] theorem State.setIvtByte_cmdPort (b : Byte) : (s.setIvtByte b).cmdPort = s.cmdPort := rfl
@[simp] theorem State.setIvtByte_rspPort (b : Byte) : (s.setIvtByte b).rspPort = s.rspPort := rfl

@[simp] theorem State.setIvtByte_blockLen (b : Byte) : (s.setIvtByte b).blockLen = s.blockLen := rfl
@[simp] theorem State.setIvtByte_hold (b : Byte) : (s.setIvtByte b).hold = s.hold := rfl
@[simp] theorem State.setIvtByte_withholding (b : Byte) : (s.setIvtByte b).withholding = s.withholding := rfl
@[simp] theorem State.setIvtByte_enc (b : Byte) (cfg : Config) : (s.setIvtByte b).enc cfg = s.enc cfg := rfl
@[simp] theorem State.setIvtByte_dec (b : Byte) (cfg : Config) : (s.setIvtByte b).dec cfg = s.dec cfg := rfl

/-! ### `setKstr` -/

@[simp] theorem State.setKstr_st (v : List Byte) : (s.setKstr v).st = s.st := rfl
@[simp] theorem State.setKstr_dir (v : List Byte) : (s.setKstr v).dir = s.dir := rfl
@[simp] theorem State.setKstr_pad (v : List Byte) : (s.setKstr v).pad = s.pad := rfl
@[simp] theorem State.setKstr_alg (v : List Byte) : (s.setKstr v).alg = s.alg := rfl
@[simp] theorem State.setKstr_mode (v : List Byte) : (s.setKstr v).mode = s.mode := rfl
@[simp] theorem State.setKstr_ctrBE (v : List Byte) : (s.setKstr v).ctrBE = s.ctrBE := rfl
@[simp] theorem State.setKstr_bs (v : List Byte) : (s.setKstr v).bs = s.bs := rfl
@[simp] theorem State.setKstr_keySched (v : List Byte) : (s.setKstr v).keySched = s.keySched := rfl
@[simp] theorem State.setKstr_ivt0 (v : List Byte) : (s.setKstr v).ivt0 = s.ivt0 := rfl
@[simp] theorem State.setKstr_ivt (v : List Byte) : (s.setKstr v).ivt = s.ivt := rfl
@[simp] theorem State.setKstr_kstr (v : List Byte) : (s.setKstr v).kstr = fit 16 v := rfl
@[simp] theorem State.setKstr_kpos (v : List Byte) : (s.setKstr v).kpos = s.kpos := rfl
@[simp] theorem State.setKstr_sstate (v : List Byte) : (s.setKstr v).sstate = s.sstate := rfl
@[simp] theorem State.setKstr_pend (v : List Byte) : (s.setKstr v).pend = s.pend := rfl
@[simp] theorem State.setKstr_plen (v : List Byte) : (s.setKstr v).plen = s.plen := rfl
@[simp] theorem State.setKstr_total (v : List Byte) : (s.setKstr v).total = s.total := rfl
@[simp] theorem State.setKstr_cmdPort (v : List Byte) : (s.setKstr v).cmdPort = s.cmdPort := rfl
@[simp] theorem State.setKstr_rspPort (v : List Byte) : (s.setKstr v).rspPort = s.rspPort := rfl

@[simp] theorem State.setKstr_blockLen (v : List Byte) : (s.setKstr v).blockLen = s.blockLen := rfl
@[simp] theorem State.setKstr_hold (v : List Byte) : (s.setKstr v).hold = s.hold := rfl
@[simp] theorem State.setKstr_withholding (v : List Byte) : (s.setKstr v).withholding = s.withholding := rfl
@[simp] theorem State.setKstr_enc (v : List Byte) (cfg : Config) : (s.setKstr v).enc cfg = s.enc cfg := rfl
@[simp] theorem State.setKstr_dec (v : List Byte) (cfg : Config) : (s.setKstr v).dec cfg = s.dec cfg := rfl

/-! ### `stepKpos` -/

@[simp] theorem State.stepKpos_st : (s.stepKpos).st = s.st := rfl
@[simp] theorem State.stepKpos_dir : (s.stepKpos).dir = s.dir := rfl
@[simp] theorem State.stepKpos_pad : (s.stepKpos).pad = s.pad := rfl
@[simp] theorem State.stepKpos_alg : (s.stepKpos).alg = s.alg := rfl
@[simp] theorem State.stepKpos_mode : (s.stepKpos).mode = s.mode := rfl
@[simp] theorem State.stepKpos_ctrBE : (s.stepKpos).ctrBE = s.ctrBE := rfl
@[simp] theorem State.stepKpos_bs : (s.stepKpos).bs = s.bs := rfl
@[simp] theorem State.stepKpos_keySched : (s.stepKpos).keySched = s.keySched := rfl
@[simp] theorem State.stepKpos_ivt0 : (s.stepKpos).ivt0 = s.ivt0 := rfl
@[simp] theorem State.stepKpos_ivt : (s.stepKpos).ivt = s.ivt := rfl
@[simp] theorem State.stepKpos_kstr : (s.stepKpos).kstr = s.kstr := rfl
@[simp] theorem State.stepKpos_kpos : (s.stepKpos).kpos = BitVec.ofNat 4 ((s.kpos.toNat + 1) % s.blockLen) := rfl
@[simp] theorem State.stepKpos_sstate : (s.stepKpos).sstate = s.sstate := rfl
@[simp] theorem State.stepKpos_pend : (s.stepKpos).pend = s.pend := rfl
@[simp] theorem State.stepKpos_plen : (s.stepKpos).plen = s.plen := rfl
@[simp] theorem State.stepKpos_total : (s.stepKpos).total = s.total := rfl
@[simp] theorem State.stepKpos_cmdPort : (s.stepKpos).cmdPort = s.cmdPort := rfl
@[simp] theorem State.stepKpos_rspPort : (s.stepKpos).rspPort = s.rspPort := rfl

@[simp] theorem State.stepKpos_blockLen : (s.stepKpos).blockLen = s.blockLen := rfl
@[simp] theorem State.stepKpos_hold : (s.stepKpos).hold = s.hold := rfl
@[simp] theorem State.stepKpos_withholding : (s.stepKpos).withholding = s.withholding := rfl
@[simp] theorem State.stepKpos_enc (cfg : Config) : (s.stepKpos).enc cfg = s.enc cfg := rfl
@[simp] theorem State.stepKpos_dec (cfg : Config) : (s.stepKpos).dec cfg = s.dec cfg := rfl

/-! ### `setSState` -/

@[simp] theorem State.setSState_st (v : KS) : (s.setSState v).st = s.st := rfl
@[simp] theorem State.setSState_dir (v : KS) : (s.setSState v).dir = s.dir := rfl
@[simp] theorem State.setSState_pad (v : KS) : (s.setSState v).pad = s.pad := rfl
@[simp] theorem State.setSState_alg (v : KS) : (s.setSState v).alg = s.alg := rfl
@[simp] theorem State.setSState_mode (v : KS) : (s.setSState v).mode = s.mode := rfl
@[simp] theorem State.setSState_ctrBE (v : KS) : (s.setSState v).ctrBE = s.ctrBE := rfl
@[simp] theorem State.setSState_bs (v : KS) : (s.setSState v).bs = s.bs := rfl
@[simp] theorem State.setSState_keySched (v : KS) : (s.setSState v).keySched = s.keySched := rfl
@[simp] theorem State.setSState_ivt0 (v : KS) : (s.setSState v).ivt0 = s.ivt0 := rfl
@[simp] theorem State.setSState_ivt (v : KS) : (s.setSState v).ivt = s.ivt := rfl
@[simp] theorem State.setSState_kstr (v : KS) : (s.setSState v).kstr = s.kstr := rfl
@[simp] theorem State.setSState_kpos (v : KS) : (s.setSState v).kpos = s.kpos := rfl
@[simp] theorem State.setSState_sstate (v : KS) : (s.setSState v).sstate = v := rfl
@[simp] theorem State.setSState_pend (v : KS) : (s.setSState v).pend = s.pend := rfl
@[simp] theorem State.setSState_plen (v : KS) : (s.setSState v).plen = s.plen := rfl
@[simp] theorem State.setSState_total (v : KS) : (s.setSState v).total = s.total := rfl
@[simp] theorem State.setSState_cmdPort (v : KS) : (s.setSState v).cmdPort = s.cmdPort := rfl
@[simp] theorem State.setSState_rspPort (v : KS) : (s.setSState v).rspPort = s.rspPort := rfl

@[simp] theorem State.setSState_blockLen (v : KS) : (s.setSState v).blockLen = s.blockLen := rfl
@[simp] theorem State.setSState_hold (v : KS) : (s.setSState v).hold = s.hold := rfl
@[simp] theorem State.setSState_withholding (v : KS) : (s.setSState v).withholding = s.withholding := rfl
@[simp] theorem State.setSState_enc (v : KS) (cfg : Config) : (s.setSState v).enc cfg = s.enc cfg := rfl
@[simp] theorem State.setSState_dec (v : KS) (cfg : Config) : (s.setSState v).dec cfg = s.dec cfg := rfl

/-! ### `setPend` -/

@[simp] theorem State.setPend_st (v : List Byte) : (s.setPend v).st = s.st := rfl
@[simp] theorem State.setPend_dir (v : List Byte) : (s.setPend v).dir = s.dir := rfl
@[simp] theorem State.setPend_pad (v : List Byte) : (s.setPend v).pad = s.pad := rfl
@[simp] theorem State.setPend_alg (v : List Byte) : (s.setPend v).alg = s.alg := rfl
@[simp] theorem State.setPend_mode (v : List Byte) : (s.setPend v).mode = s.mode := rfl
@[simp] theorem State.setPend_ctrBE (v : List Byte) : (s.setPend v).ctrBE = s.ctrBE := rfl
@[simp] theorem State.setPend_bs (v : List Byte) : (s.setPend v).bs = s.bs := rfl
@[simp] theorem State.setPend_keySched (v : List Byte) : (s.setPend v).keySched = s.keySched := rfl
@[simp] theorem State.setPend_ivt0 (v : List Byte) : (s.setPend v).ivt0 = s.ivt0 := rfl
@[simp] theorem State.setPend_ivt (v : List Byte) : (s.setPend v).ivt = s.ivt := rfl
@[simp] theorem State.setPend_kstr (v : List Byte) : (s.setPend v).kstr = s.kstr := rfl
@[simp] theorem State.setPend_kpos (v : List Byte) : (s.setPend v).kpos = s.kpos := rfl
@[simp] theorem State.setPend_sstate (v : List Byte) : (s.setPend v).sstate = s.sstate := rfl
@[simp] theorem State.setPend_pend (v : List Byte) : (s.setPend v).pend = fit 31 v := rfl
@[simp] theorem State.setPend_plen (v : List Byte) : (s.setPend v).plen = BitVec.ofNat 5 v.length := rfl
@[simp] theorem State.setPend_total (v : List Byte) : (s.setPend v).total = s.total := rfl
@[simp] theorem State.setPend_cmdPort (v : List Byte) : (s.setPend v).cmdPort = s.cmdPort := rfl
@[simp] theorem State.setPend_rspPort (v : List Byte) : (s.setPend v).rspPort = s.rspPort := rfl

@[simp] theorem State.setPend_blockLen (v : List Byte) : (s.setPend v).blockLen = s.blockLen := rfl
@[simp] theorem State.setPend_hold (v : List Byte) : (s.setPend v).hold = s.hold := rfl
@[simp] theorem State.setPend_withholding (v : List Byte) : (s.setPend v).withholding = s.withholding := rfl
@[simp] theorem State.setPend_enc (v : List Byte) (cfg : Config) : (s.setPend v).enc cfg = s.enc cfg := rfl
@[simp] theorem State.setPend_dec (v : List Byte) (cfg : Config) : (s.setPend v).dec cfg = s.dec cfg := rfl

/-! ### `addTotal` -/

@[simp] theorem State.addTotal_st (n : Nat) : (s.addTotal n).st = s.st := rfl
@[simp] theorem State.addTotal_dir (n : Nat) : (s.addTotal n).dir = s.dir := rfl
@[simp] theorem State.addTotal_pad (n : Nat) : (s.addTotal n).pad = s.pad := rfl
@[simp] theorem State.addTotal_alg (n : Nat) : (s.addTotal n).alg = s.alg := rfl
@[simp] theorem State.addTotal_mode (n : Nat) : (s.addTotal n).mode = s.mode := rfl
@[simp] theorem State.addTotal_ctrBE (n : Nat) : (s.addTotal n).ctrBE = s.ctrBE := rfl
@[simp] theorem State.addTotal_bs (n : Nat) : (s.addTotal n).bs = s.bs := rfl
@[simp] theorem State.addTotal_keySched (n : Nat) : (s.addTotal n).keySched = s.keySched := rfl
@[simp] theorem State.addTotal_ivt0 (n : Nat) : (s.addTotal n).ivt0 = s.ivt0 := rfl
@[simp] theorem State.addTotal_ivt (n : Nat) : (s.addTotal n).ivt = s.ivt := rfl
@[simp] theorem State.addTotal_kstr (n : Nat) : (s.addTotal n).kstr = s.kstr := rfl
@[simp] theorem State.addTotal_kpos (n : Nat) : (s.addTotal n).kpos = s.kpos := rfl
@[simp] theorem State.addTotal_sstate (n : Nat) : (s.addTotal n).sstate = s.sstate := rfl
@[simp] theorem State.addTotal_pend (n : Nat) : (s.addTotal n).pend = s.pend := rfl
@[simp] theorem State.addTotal_plen (n : Nat) : (s.addTotal n).plen = s.plen := rfl
@[simp] theorem State.addTotal_total (n : Nat) : (s.addTotal n).total = BitVec.ofNat 64 (s.total.toNat + n) := rfl
@[simp] theorem State.addTotal_cmdPort (n : Nat) : (s.addTotal n).cmdPort = s.cmdPort := rfl
@[simp] theorem State.addTotal_rspPort (n : Nat) : (s.addTotal n).rspPort = s.rspPort := rfl

@[simp] theorem State.addTotal_blockLen (n : Nat) : (s.addTotal n).blockLen = s.blockLen := rfl
@[simp] theorem State.addTotal_hold (n : Nat) : (s.addTotal n).hold = s.hold := rfl
@[simp] theorem State.addTotal_withholding (n : Nat) : (s.addTotal n).withholding = s.withholding := rfl
@[simp] theorem State.addTotal_enc (n : Nat) (cfg : Config) : (s.addTotal n).enc cfg = s.enc cfg := rfl
@[simp] theorem State.addTotal_dec (n : Nat) (cfg : Config) : (s.addTotal n).dec cfg = s.dec cfg := rfl

/-! ### `setSt` -/

@[simp] theorem State.setSt_st (v : SessionState) : (s.setSt v).st = v := rfl
@[simp] theorem State.setSt_dir (v : SessionState) : (s.setSt v).dir = s.dir := rfl
@[simp] theorem State.setSt_pad (v : SessionState) : (s.setSt v).pad = s.pad := rfl
@[simp] theorem State.setSt_alg (v : SessionState) : (s.setSt v).alg = s.alg := rfl
@[simp] theorem State.setSt_mode (v : SessionState) : (s.setSt v).mode = s.mode := rfl
@[simp] theorem State.setSt_ctrBE (v : SessionState) : (s.setSt v).ctrBE = s.ctrBE := rfl
@[simp] theorem State.setSt_bs (v : SessionState) : (s.setSt v).bs = s.bs := rfl
@[simp] theorem State.setSt_keySched (v : SessionState) : (s.setSt v).keySched = s.keySched := rfl
@[simp] theorem State.setSt_ivt0 (v : SessionState) : (s.setSt v).ivt0 = s.ivt0 := rfl
@[simp] theorem State.setSt_ivt (v : SessionState) : (s.setSt v).ivt = s.ivt := rfl
@[simp] theorem State.setSt_kstr (v : SessionState) : (s.setSt v).kstr = s.kstr := rfl
@[simp] theorem State.setSt_kpos (v : SessionState) : (s.setSt v).kpos = s.kpos := rfl
@[simp] theorem State.setSt_sstate (v : SessionState) : (s.setSt v).sstate = s.sstate := rfl
@[simp] theorem State.setSt_pend (v : SessionState) : (s.setSt v).pend = s.pend := rfl
@[simp] theorem State.setSt_plen (v : SessionState) : (s.setSt v).plen = s.plen := rfl
@[simp] theorem State.setSt_total (v : SessionState) : (s.setSt v).total = s.total := rfl
@[simp] theorem State.setSt_cmdPort (v : SessionState) : (s.setSt v).cmdPort = s.cmdPort := rfl
@[simp] theorem State.setSt_rspPort (v : SessionState) : (s.setSt v).rspPort = s.rspPort := rfl

@[simp] theorem State.setSt_blockLen (v : SessionState) : (s.setSt v).blockLen = s.blockLen := rfl
@[simp] theorem State.setSt_hold (v : SessionState) : (s.setSt v).hold = s.hold := rfl
@[simp] theorem State.setSt_withholding (v : SessionState) : (s.setSt v).withholding = s.withholding := rfl
@[simp] theorem State.setSt_enc (v : SessionState) (cfg : Config) : (s.setSt v).enc cfg = s.enc cfg := rfl
@[simp] theorem State.setSt_dec (v : SessionState) (cfg : Config) : (s.setSt v).dec cfg = s.dec cfg := rfl

/-! ### `respond` -/

@[simp] theorem State.respond_st (r : Status) (d : List Byte) (n : Nat) : (s.respond r d n).st = s.st := rfl
@[simp] theorem State.respond_dir (r : Status) (d : List Byte) (n : Nat) : (s.respond r d n).dir = s.dir := rfl
@[simp] theorem State.respond_pad (r : Status) (d : List Byte) (n : Nat) : (s.respond r d n).pad = s.pad := rfl
@[simp] theorem State.respond_alg (r : Status) (d : List Byte) (n : Nat) : (s.respond r d n).alg = s.alg := rfl
@[simp] theorem State.respond_mode (r : Status) (d : List Byte) (n : Nat) : (s.respond r d n).mode = s.mode := rfl
@[simp] theorem State.respond_ctrBE (r : Status) (d : List Byte) (n : Nat) : (s.respond r d n).ctrBE = s.ctrBE := rfl
@[simp] theorem State.respond_bs (r : Status) (d : List Byte) (n : Nat) : (s.respond r d n).bs = s.bs := rfl
@[simp] theorem State.respond_keySched (r : Status) (d : List Byte) (n : Nat) : (s.respond r d n).keySched = s.keySched := rfl
@[simp] theorem State.respond_ivt0 (r : Status) (d : List Byte) (n : Nat) : (s.respond r d n).ivt0 = s.ivt0 := rfl
@[simp] theorem State.respond_ivt (r : Status) (d : List Byte) (n : Nat) : (s.respond r d n).ivt = s.ivt := rfl
@[simp] theorem State.respond_kstr (r : Status) (d : List Byte) (n : Nat) : (s.respond r d n).kstr = s.kstr := rfl
@[simp] theorem State.respond_kpos (r : Status) (d : List Byte) (n : Nat) : (s.respond r d n).kpos = s.kpos := rfl
@[simp] theorem State.respond_sstate (r : Status) (d : List Byte) (n : Nat) : (s.respond r d n).sstate = s.sstate := rfl
@[simp] theorem State.respond_pend (r : Status) (d : List Byte) (n : Nat) : (s.respond r d n).pend = s.pend := rfl
@[simp] theorem State.respond_plen (r : Status) (d : List Byte) (n : Nat) : (s.respond r d n).plen = s.plen := rfl
@[simp] theorem State.respond_total (r : Status) (d : List Byte) (n : Nat) : (s.respond r d n).total = s.total := rfl
@[simp] theorem State.respond_cmdPort (r : Status) (d : List Byte) (n : Nat) : (s.respond r d n).cmdPort = s.cmdPort := rfl
@[simp] theorem State.respond_rspPort (r : Status) (d : List Byte) (n : Nat) : (s.respond r d n).rspPort = s.rspPort ++ [responsePacket r d n] := rfl

@[simp] theorem State.respond_blockLen (r : Status) (d : List Byte) (n : Nat) : (s.respond r d n).blockLen = s.blockLen := rfl
@[simp] theorem State.respond_hold (r : Status) (d : List Byte) (n : Nat) : (s.respond r d n).hold = s.hold := rfl
@[simp] theorem State.respond_withholding (r : Status) (d : List Byte) (n : Nat) : (s.respond r d n).withholding = s.withholding := rfl
@[simp] theorem State.respond_enc (r : Status) (d : List Byte) (n : Nat) (cfg : Config) : (s.respond r d n).enc cfg = s.enc cfg := rfl
@[simp] theorem State.respond_dec (r : Status) (d : List Byte) (n : Nat) (cfg : Config) : (s.respond r d n).dec cfg = s.dec cfg := rfl

/-! ### `errorEntry` -/

@[simp] theorem State.errorEntry_st : (s.errorEntry).st = .errored := rfl
@[simp] theorem State.errorEntry_dir : (s.errorEntry).dir = s.dir := rfl
@[simp] theorem State.errorEntry_pad : (s.errorEntry).pad = s.pad := rfl
@[simp] theorem State.errorEntry_alg : (s.errorEntry).alg = s.alg := rfl
@[simp] theorem State.errorEntry_mode : (s.errorEntry).mode = s.mode := rfl
@[simp] theorem State.errorEntry_ctrBE : (s.errorEntry).ctrBE = s.ctrBE := rfl
@[simp] theorem State.errorEntry_bs : (s.errorEntry).bs = s.bs := rfl
@[simp] theorem State.errorEntry_keySched : (s.errorEntry).keySched = s.keySched := rfl
@[simp] theorem State.errorEntry_ivt0 : (s.errorEntry).ivt0 = Vector.replicate 16 0 := rfl
@[simp] theorem State.errorEntry_ivt : (s.errorEntry).ivt = Vector.replicate 16 0 := rfl
@[simp] theorem State.errorEntry_kstr : (s.errorEntry).kstr = Vector.replicate 16 0 := rfl
@[simp] theorem State.errorEntry_kpos : (s.errorEntry).kpos = 0 := rfl
@[simp] theorem State.errorEntry_sstate : (s.errorEntry).sstate = ksZero := rfl
@[simp] theorem State.errorEntry_pend : (s.errorEntry).pend = Vector.replicate 31 0 := rfl
@[simp] theorem State.errorEntry_plen : (s.errorEntry).plen = 0 := rfl
@[simp] theorem State.errorEntry_total : (s.errorEntry).total = 0 := rfl
@[simp] theorem State.errorEntry_cmdPort : (s.errorEntry).cmdPort = s.cmdPort := rfl
@[simp] theorem State.errorEntry_rspPort : (s.errorEntry).rspPort = s.rspPort := rfl

@[simp] theorem State.errorEntry_blockLen : (s.errorEntry).blockLen = s.blockLen := rfl
@[simp] theorem State.errorEntry_hold : (s.errorEntry).hold = s.hold := rfl
@[simp] theorem State.errorEntry_withholding : (s.errorEntry).withholding = s.withholding := rfl
@[simp] theorem State.errorEntry_enc (cfg : Config) : (s.errorEntry).enc cfg = s.enc cfg := rfl
@[simp] theorem State.errorEntry_dec (cfg : Config) : (s.errorEntry).dec cfg = s.dec cfg := rfl

/-! ### `loadIV` -/

@[simp] theorem State.loadIV_st (c : Config) (v : List Byte) : (s.loadIV c v).st = .active := rfl
@[simp] theorem State.loadIV_dir (c : Config) (v : List Byte) : (s.loadIV c v).dir = s.dir := rfl
@[simp] theorem State.loadIV_pad (c : Config) (v : List Byte) : (s.loadIV c v).pad = s.pad := rfl
@[simp] theorem State.loadIV_alg (c : Config) (v : List Byte) : (s.loadIV c v).alg = s.alg := rfl
@[simp] theorem State.loadIV_mode (c : Config) (v : List Byte) : (s.loadIV c v).mode = s.mode := rfl
@[simp] theorem State.loadIV_ctrBE (c : Config) (v : List Byte) : (s.loadIV c v).ctrBE = s.ctrBE := rfl
@[simp] theorem State.loadIV_bs (c : Config) (v : List Byte) : (s.loadIV c v).bs = s.bs := rfl
@[simp] theorem State.loadIV_keySched (c : Config) (v : List Byte) : (s.loadIV c v).keySched = s.keySched := rfl
@[simp] theorem State.loadIV_ivt0 (c : Config) (v : List Byte) : (s.loadIV c v).ivt0 = loadedIvt0 s.mode v := rfl
@[simp] theorem State.loadIV_ivt (c : Config) (v : List Byte) : (s.loadIV c v).ivt = loadedIvt c s.mode s.alg s.keySched v := rfl
@[simp] theorem State.loadIV_kstr (c : Config) (v : List Byte) : (s.loadIV c v).kstr = Vector.replicate 16 0 := rfl
@[simp] theorem State.loadIV_kpos (c : Config) (v : List Byte) : (s.loadIV c v).kpos = 0 := rfl
@[simp] theorem State.loadIV_sstate (c : Config) (v : List Byte) : (s.loadIV c v).sstate = loadedSState s.mode s.keySched := rfl
@[simp] theorem State.loadIV_pend (c : Config) (v : List Byte) : (s.loadIV c v).pend = Vector.replicate 31 0 := rfl
@[simp] theorem State.loadIV_plen (c : Config) (v : List Byte) : (s.loadIV c v).plen = 0 := rfl
@[simp] theorem State.loadIV_total (c : Config) (v : List Byte) : (s.loadIV c v).total = 0 := rfl
@[simp] theorem State.loadIV_cmdPort (c : Config) (v : List Byte) : (s.loadIV c v).cmdPort = s.cmdPort := rfl
@[simp] theorem State.loadIV_rspPort (c : Config) (v : List Byte) : (s.loadIV c v).rspPort = s.rspPort := rfl

@[simp] theorem State.loadIV_blockLen (c : Config) (v : List Byte) : (s.loadIV c v).blockLen = s.blockLen := rfl
@[simp] theorem State.loadIV_hold (c : Config) (v : List Byte) : (s.loadIV c v).hold = s.hold := rfl
@[simp] theorem State.loadIV_withholding (c : Config) (v : List Byte) : (s.loadIV c v).withholding = s.withholding := rfl
@[simp] theorem State.loadIV_enc (c : Config) (v : List Byte) : (s.loadIV c v).enc c = s.enc c := rfl
@[simp] theorem State.loadIV_dec (c : Config) (v : List Byte) : (s.loadIV c v).dec c = s.dec c := rfl

/-! ### `finish` -/

@[simp] theorem State.finish_st : (s.finish).st = .finalized := rfl
@[simp] theorem State.finish_dir : (s.finish).dir = s.dir := rfl
@[simp] theorem State.finish_pad : (s.finish).pad = s.pad := rfl
@[simp] theorem State.finish_alg : (s.finish).alg = s.alg := rfl
@[simp] theorem State.finish_mode : (s.finish).mode = s.mode := rfl
@[simp] theorem State.finish_ctrBE : (s.finish).ctrBE = s.ctrBE := rfl
@[simp] theorem State.finish_bs : (s.finish).bs = s.bs := rfl
@[simp] theorem State.finish_keySched : (s.finish).keySched = s.keySched := rfl
@[simp] theorem State.finish_ivt0 : (s.finish).ivt0 = s.ivt0 := rfl
@[simp] theorem State.finish_ivt : (s.finish).ivt = s.ivt := rfl
@[simp] theorem State.finish_kstr : (s.finish).kstr = Vector.replicate 16 0 := rfl
@[simp] theorem State.finish_kpos : (s.finish).kpos = 0 := rfl
@[simp] theorem State.finish_sstate : (s.finish).sstate = s.sstate := rfl
@[simp] theorem State.finish_pend : (s.finish).pend = Vector.replicate 31 0 := rfl
@[simp] theorem State.finish_plen : (s.finish).plen = 0 := rfl
@[simp] theorem State.finish_total : (s.finish).total = s.total := rfl
@[simp] theorem State.finish_cmdPort : (s.finish).cmdPort = s.cmdPort := rfl
@[simp] theorem State.finish_rspPort : (s.finish).rspPort = s.rspPort := rfl

@[simp] theorem State.finish_blockLen : (s.finish).blockLen = s.blockLen := rfl
@[simp] theorem State.finish_hold : (s.finish).hold = s.hold := rfl
@[simp] theorem State.finish_withholding : (s.finish).withholding = s.withholding := rfl
@[simp] theorem State.finish_enc (cfg : Config) : (s.finish).enc cfg = s.enc cfg := rfl
@[simp] theorem State.finish_dec (cfg : Config) : (s.finish).dec cfg = s.dec cfg := rfl

/-! ### `configure` -/

@[simp] theorem State.configure_st (c : Config) (a : CreateArgs) (alg : Alg) : (s.configure c a alg).st = s.st := rfl
@[simp] theorem State.configure_dir (c : Config) (a : CreateArgs) (alg : Alg) : (s.configure c a alg).dir = a.dir := rfl
@[simp] theorem State.configure_pad (c : Config) (a : CreateArgs) (alg : Alg) : (s.configure c a alg).pad = a.pad := rfl
@[simp] theorem State.configure_alg (c : Config) (a : CreateArgs) (alg : Alg) : (s.configure c a alg).alg = alg := rfl
@[simp] theorem State.configure_mode (c : Config) (a : CreateArgs) (alg : Alg) : (s.configure c a alg).mode = a.mode := rfl
@[simp] theorem State.configure_ctrBE (c : Config) (a : CreateArgs) (alg : Alg) : (s.configure c a alg).ctrBE = a.ctrBE := rfl
@[simp] theorem State.configure_bs (c : Config) (a : CreateArgs) (alg : Alg) : (s.configure c a alg).bs = BitVec.ofNat 5 (c.blockSize alg) := rfl
@[simp] theorem State.configure_keySched (c : Config) (a : CreateArgs) (alg : Alg) : (s.configure c a alg).keySched = c.schedule alg a.key a.rounds := rfl
@[simp] theorem State.configure_ivt0 (c : Config) (a : CreateArgs) (alg : Alg) : (s.configure c a alg).ivt0 = s.ivt0 := rfl
@[simp] theorem State.configure_ivt (c : Config) (a : CreateArgs) (alg : Alg) : (s.configure c a alg).ivt = s.ivt := rfl
@[simp] theorem State.configure_kstr (c : Config) (a : CreateArgs) (alg : Alg) : (s.configure c a alg).kstr = s.kstr := rfl
@[simp] theorem State.configure_kpos (c : Config) (a : CreateArgs) (alg : Alg) : (s.configure c a alg).kpos = s.kpos := rfl
@[simp] theorem State.configure_sstate (c : Config) (a : CreateArgs) (alg : Alg) : (s.configure c a alg).sstate = s.sstate := rfl
@[simp] theorem State.configure_pend (c : Config) (a : CreateArgs) (alg : Alg) : (s.configure c a alg).pend = s.pend := rfl
@[simp] theorem State.configure_plen (c : Config) (a : CreateArgs) (alg : Alg) : (s.configure c a alg).plen = s.plen := rfl
@[simp] theorem State.configure_total (c : Config) (a : CreateArgs) (alg : Alg) : (s.configure c a alg).total = s.total := rfl
@[simp] theorem State.configure_cmdPort (c : Config) (a : CreateArgs) (alg : Alg) : (s.configure c a alg).cmdPort = s.cmdPort := rfl
@[simp] theorem State.configure_rspPort (c : Config) (a : CreateArgs) (alg : Alg) : (s.configure c a alg).rspPort = s.rspPort := rfl

/-! ### `withPacket` -/

@[simp] theorem State.withPacket_st (pkt : List Byte) : (s.withPacket pkt).st = s.st := rfl
@[simp] theorem State.withPacket_dir (pkt : List Byte) : (s.withPacket pkt).dir = s.dir := rfl
@[simp] theorem State.withPacket_pad (pkt : List Byte) : (s.withPacket pkt).pad = s.pad := rfl
@[simp] theorem State.withPacket_alg (pkt : List Byte) : (s.withPacket pkt).alg = s.alg := rfl
@[simp] theorem State.withPacket_mode (pkt : List Byte) : (s.withPacket pkt).mode = s.mode := rfl
@[simp] theorem State.withPacket_ctrBE (pkt : List Byte) : (s.withPacket pkt).ctrBE = s.ctrBE := rfl
@[simp] theorem State.withPacket_bs (pkt : List Byte) : (s.withPacket pkt).bs = s.bs := rfl
@[simp] theorem State.withPacket_keySched (pkt : List Byte) : (s.withPacket pkt).keySched = s.keySched := rfl
@[simp] theorem State.withPacket_ivt0 (pkt : List Byte) : (s.withPacket pkt).ivt0 = s.ivt0 := rfl
@[simp] theorem State.withPacket_ivt (pkt : List Byte) : (s.withPacket pkt).ivt = s.ivt := rfl
@[simp] theorem State.withPacket_kstr (pkt : List Byte) : (s.withPacket pkt).kstr = s.kstr := rfl
@[simp] theorem State.withPacket_kpos (pkt : List Byte) : (s.withPacket pkt).kpos = s.kpos := rfl
@[simp] theorem State.withPacket_sstate (pkt : List Byte) : (s.withPacket pkt).sstate = s.sstate := rfl
@[simp] theorem State.withPacket_pend (pkt : List Byte) : (s.withPacket pkt).pend = s.pend := rfl
@[simp] theorem State.withPacket_plen (pkt : List Byte) : (s.withPacket pkt).plen = s.plen := rfl
@[simp] theorem State.withPacket_total (pkt : List Byte) : (s.withPacket pkt).total = s.total := rfl
@[simp] theorem State.withPacket_cmdPort (pkt : List Byte) : (s.withPacket pkt).cmdPort = .packet pkt :: s.cmdPort := rfl
@[simp] theorem State.withPacket_rspPort (pkt : List Byte) : (s.withPacket pkt).rspPort = s.rspPort := rfl

@[simp] theorem State.withPacket_blockLen (pkt : List Byte) : (s.withPacket pkt).blockLen = s.blockLen := rfl
@[simp] theorem State.withPacket_hold (pkt : List Byte) : (s.withPacket pkt).hold = s.hold := rfl
@[simp] theorem State.withPacket_withholding (pkt : List Byte) : (s.withPacket pkt).withholding = s.withholding := rfl
@[simp] theorem State.withPacket_enc (pkt : List Byte) (cfg : Config) : (s.withPacket pkt).enc cfg = s.enc cfg := rfl
@[simp] theorem State.withPacket_dec (pkt : List Byte) (cfg : Config) : (s.withPacket pkt).dec cfg = s.dec cfg := rfl

/-! ### `clearRegisters` -/

@[simp] theorem State.clearRegisters_st : (s.clearRegisters).st = State.reset.st := rfl
@[simp] theorem State.clearRegisters_dir : (s.clearRegisters).dir = State.reset.dir := rfl
@[simp] theorem State.clearRegisters_pad : (s.clearRegisters).pad = State.reset.pad := rfl
@[simp] theorem State.clearRegisters_alg : (s.clearRegisters).alg = State.reset.alg := rfl
@[simp] theorem State.clearRegisters_mode : (s.clearRegisters).mode = State.reset.mode := rfl
@[simp] theorem State.clearRegisters_ctrBE : (s.clearRegisters).ctrBE = State.reset.ctrBE := rfl
@[simp] theorem State.clearRegisters_bs : (s.clearRegisters).bs = State.reset.bs := rfl
@[simp] theorem State.clearRegisters_keySched : (s.clearRegisters).keySched = State.reset.keySched := rfl
@[simp] theorem State.clearRegisters_ivt0 : (s.clearRegisters).ivt0 = State.reset.ivt0 := rfl
@[simp] theorem State.clearRegisters_ivt : (s.clearRegisters).ivt = State.reset.ivt := rfl
@[simp] theorem State.clearRegisters_kstr : (s.clearRegisters).kstr = State.reset.kstr := rfl
@[simp] theorem State.clearRegisters_kpos : (s.clearRegisters).kpos = State.reset.kpos := rfl
@[simp] theorem State.clearRegisters_sstate : (s.clearRegisters).sstate = State.reset.sstate := rfl
@[simp] theorem State.clearRegisters_pend : (s.clearRegisters).pend = State.reset.pend := rfl
@[simp] theorem State.clearRegisters_plen : (s.clearRegisters).plen = State.reset.plen := rfl
@[simp] theorem State.clearRegisters_total : (s.clearRegisters).total = State.reset.total := rfl
@[simp] theorem State.clearRegisters_cmdPort : (s.clearRegisters).cmdPort = s.cmdPort := rfl
@[simp] theorem State.clearRegisters_rspPort : (s.clearRegisters).rspPort = s.rspPort := rfl

end Sys2Proof.Machine
end

