-- ==== Sys2Proof/Laws/ModeDriver.lean ====
section
/-!
SUPPORT. What a unit transform can do (R200): which registers it writes, how long its output is, and what encrypt and
decrypt do to one another.
-/

namespace Sys2Proof.Machine

/-- A `BlockUnit` writes `IVT` and nothing else. -/
theorem blockUnit_state (c : Config) (m : BlockMode) (s : State) (b : List Byte) :
    ∃ v, (blockUnit c m s b).1 = { s with ivt := v } := by
  cases m with
  | ecb =>
    show ∃ v, (ecbUnit c s b).1 = { s with ivt := v }
    unfold ecbUnit
    split <;> exact ⟨s.ivt, rfl⟩
  | cbc =>
    show ∃ v, (cbcUnit c s b).1 = { s with ivt := v }
    unfold cbcUnit
    split <;> exact ⟨_, rfl⟩
  | xts => exact ⟨_, rfl⟩

theorem cfbRefill_state (c : Config) (s : State) : ∃ k, cfbRefill c s = { s with kstr := k } := by
  unfold cfbRefill
  split
  · exact ⟨_, rfl⟩
  · exact ⟨s.kstr, rfl⟩

theorem ofbRefill_state (c : Config) (s : State) : ∃ i k, ofbRefill c s = { s with ivt := i, kstr := k } := by
  unfold ofbRefill
  split
  · exact ⟨_, _, rfl⟩
  · exact ⟨s.ivt, s.kstr, rfl⟩

theorem ctrRefill_state (c : Config) (s : State) : ∃ i k, ctrRefill c s = { s with ivt := i, kstr := k } := by
  unfold ctrRefill
  split
  · exact ⟨_, _, rfl⟩
  · exact ⟨s.ivt, s.kstr, rfl⟩

/-- A `ByteUnit` writes `IVT`, `KSTR`, `KPOS`, `SSTATE` and nothing else. -/
theorem byteUnit_state (c : Config) (m : StreamMode) (s : State) (x : Byte) :
    ∃ i k p t, (byteUnit c m s x).1 = { s with ivt := i, kstr := k, kpos := p, sstate := t } := by
  cases m with
  | cfb =>
    obtain ⟨k, h⟩ := cfbRefill_state c s
    have key : ∀ b, ∃ i k p t,
        ((cfbRefill c s).setIvtByte b).stepKpos = { s with ivt := i, kstr := k, kpos := p, sstate := t } := by
      intro b
      rw [h]
      exact ⟨_, _, _, _, rfl⟩
    exact key _
  | cfb8 => exact ⟨_, s.kstr, s.kpos, s.sstate, rfl⟩
  | ctr =>
    obtain ⟨i, k, h⟩ := ctrRefill_state c s
    have key : ∃ i k p t, (ctrRefill c s).stepKpos = { s with ivt := i, kstr := k, kpos := p, sstate := t } := by
      rw [h]
      exact ⟨_, _, _, _, rfl⟩
    exact key
  | ofb =>
    obtain ⟨i, k, h⟩ := ofbRefill_state c s
    have key : ∃ i k p t, (ofbRefill c s).stepKpos = { s with ivt := i, kstr := k, kpos := p, sstate := t } := by
      rw [h]
      exact ⟨_, _, _, _, rfl⟩
    exact key
  | rc4 => exact ⟨s.ivt, s.kstr, s.kpos, _, rfl⟩

@[simp] theorem blockUnit_blockLen (c : Config) (m : BlockMode) (s : State) (b : List Byte) :
    (blockUnit c m s b).1.blockLen = s.blockLen := by
  obtain ⟨v, h⟩ := blockUnit_state c m s b
  rw [h]
  rfl

@[simp] theorem blockUnit_hold (c : Config) (m : BlockMode) (s : State) (b : List Byte) :
    (blockUnit c m s b).1.hold = s.hold := by
  obtain ⟨v, h⟩ := blockUnit_state c m s b
  rw [h]
  rfl

@[simp] theorem shiftLeftBytes_length (p : Byte) (l : List Byte) : (shiftLeftBytes p l).length = l.length := by
  induction l generalizing p with
  | nil => rfl
  | cons b t ih => simp [shiftLeftBytes, ih]

@[simp] theorem reduceTweak_length (l : List Byte) : (reduceTweak l).length = l.length := by cases l <;> simp [reduceTweak]

@[simp] theorem mulAlpha_length (l : List Byte) : (mulAlpha l).length = l.length := by
  unfold mulAlpha
  dsimp only
  split <;> simp

@[simp] theorem ctrInc_length (e : Endian) (l : List Byte) : (ctrInc e l).length = l.length := by
  cases e <;> simp [ctrInc]

/-- A `BlockUnit` returns a block (R200). -/
theorem blockUnit_length (c : Config) (m : BlockMode) {s : State} {b : List Byte} (hb : b.length = s.blockLen)
    (h16 : s.blockLen ≤ 16) : (blockUnit c m s b).2.length = s.blockLen := by
  have hi := State.ivtBytes_length h16
  cases m with
  | ecb => cases h : s.dir <;> simp [blockUnit, ecbUnit, h, hb]
  | cbc => cases h : s.dir <;> simp [blockUnit, cbcUnit, cbcEncUnit, cbcDecUnit, h, hb, hi]
  | xts => cases h : s.dir <;> simp [blockUnit, xtsUnit, h, hb, hi]

end Sys2Proof.Machine
end

