-- ==== Sys2Proof/Laws/Buffer.lean ====
section
/-!
SUPPORT. What the Streaming Buffer can do (R173 to R176): the registers it writes, its output lengths, and how it acts
on an input that comes in two pieces.
-/

namespace Sys2Proof.Machine

/-- `StreamPush` writes `IVT`, `KSTR`, `KPOS`, `SSTATE` and nothing else. -/
theorem streamPush_state (c : Config) (m : StreamMode) (s : State) (xs : List Byte) :
    ∃ i k p t, (streamPush c m s xs).1 = { s with ivt := i, kstr := k, kpos := p, sstate := t } := by
  induction xs generalizing s with
  | nil => exact ⟨s.ivt, s.kstr, s.kpos, s.sstate, rfl⟩
  | cons x rest ih =>
    obtain ⟨i, k, p, t, h1⟩ := byteUnit_state c m s x
    obtain ⟨i', k', p', t', h2⟩ := ih (byteUnit c m s x).1
    refine ⟨i', k', p', t', ?_⟩
    show (streamPush c m (byteUnit c m s x).1 rest).1 = _
    rw [h2, h1]

/-- One output byte for each input byte (R175). -/
@[simp] theorem streamPush_length (c : Config) (m : StreamMode) (s : State) (xs : List Byte) :
    (streamPush c m s xs).2.length = xs.length := by
  induction xs generalizing s with
  | nil => rfl
  | cons x rest ih => simp [streamPush, ih]

/-- An input in two pieces (R186). -/
theorem streamPush_append (c : Config) (m : StreamMode) (s : State) (xs ys : List Byte) :
    streamPush c m s (xs ++ ys)
      = ((streamPush c m (streamPush c m s xs).1 ys).1,
          (streamPush c m s xs).2 ++ (streamPush c m (streamPush c m s xs).1 ys).2) := by
  induction xs generalizing s with
  | nil => rfl
  | cons x rest ih => simp [streamPush, ih]

/-- The loop writes `IVT` and nothing else. -/
theorem blockLoop_state (c : Config) (m : BlockMode) (fuel : Nat) (s : State) (buf : List Byte) :
    ∃ v, (blockLoop c m fuel s buf).1 = { s with ivt := v } := by
  induction fuel generalizing s buf with
  | zero => exact ⟨s.ivt, rfl⟩
  | succ n ih =>
    unfold blockLoop
    split
    · obtain ⟨v, h1⟩ := blockUnit_state c m s (buf.take s.blockLen)
      obtain ⟨w, h2⟩ := ih (blockUnit c m s (buf.take s.blockLen)).1 (buf.drop s.blockLen)
      exact ⟨w, by dsimp only; rw [h2, h1]⟩
    · exact ⟨s.ivt, rfl⟩

@[simp] theorem blockLoop_blockLen (c : Config) (m : BlockMode) (fuel : Nat) (s : State) (buf : List Byte) :
    (blockLoop c m fuel s buf).1.blockLen = s.blockLen := by
  obtain ⟨v, h⟩ := blockLoop_state c m fuel s buf
  rw [h]
  rfl

@[simp] theorem blockLoop_hold (c : Config) (m : BlockMode) (fuel : Nat) (s : State) (buf : List Byte) :
    (blockLoop c m fuel s buf).1.hold = s.hold := by
  obtain ⟨v, h⟩ := blockLoop_state c m fuel s buf
  rw [h]
  rfl

/-- One turn of the loop. -/
theorem blockLoop_turn (c : Config) (m : BlockMode) (fuel : Nat) {s : State} {buf : List Byte}
    (h : s.blockLen + s.hold ≤ buf.length) :
    blockLoop c m (fuel + 1) s buf =
      ((blockLoop c m fuel (blockUnit c m s (buf.take s.blockLen)).1 (buf.drop s.blockLen)).1,
        (blockUnit c m s (buf.take s.blockLen)).2 ++
          (blockLoop c m fuel (blockUnit c m s (buf.take s.blockLen)).1 (buf.drop s.blockLen)).2.1,
        (blockLoop c m fuel (blockUnit c m s (buf.take s.blockLen)).1 (buf.drop s.blockLen)).2.2) := by
  rw [blockLoop, if_pos h]

/-- Below `BS + hold` bytes the loop does nothing. -/
theorem blockLoop_short (c : Config) (m : BlockMode) (fuel : Nat) {s : State} {buf : List Byte}
    (h : buf.length < s.blockLen + s.hold) : blockLoop c m fuel s buf = (s, [], buf) := by
  cases fuel with
  | zero => rfl
  | succ n => rw [blockLoop, if_neg (by omega)]

/-- More fuel than the buffer is long changes nothing. -/
theorem blockLoop_fuel (c : Config) (m : BlockMode) {s : State} (hbs : 0 < s.blockLen) (f g : Nat) (buf : List Byte)
    (hf : buf.length ≤ f) (hg : buf.length ≤ g) : blockLoop c m f s buf = blockLoop c m g s buf := by
  induction f generalizing s g buf with
  | zero =>
    have : buf.length < s.blockLen + s.hold := by omega
    rw [blockLoop_short c m _ this, blockLoop_short c m _ this]
  | succ f ih =>
    by_cases h : s.blockLen + s.hold ≤ buf.length
    · obtain ⟨g, rfl⟩ : ∃ k, g = k + 1 := ⟨g - 1, by omega⟩
      rw [blockLoop_turn c m f h, blockLoop_turn c m g h]
      have hd : (buf.drop s.blockLen).length = buf.length - s.blockLen := by simp
      rw [ih (s := (blockUnit c m s (buf.take s.blockLen)).1) (by simpa using hbs) g (buf.drop s.blockLen) (by omega)
        (by omega)]
    · rw [blockLoop_short c m _ (by omega), blockLoop_short c m _ (by omega)]

/-- The loop on an input that comes in two pieces (R186): the second piece is joined to what the first left. -/
theorem blockLoop_append (c : Config) (m : BlockMode) {s : State} (hbs : 0 < s.blockLen) (f g : Nat) (buf more : List Byte)
    (hf : buf.length ≤ f) (hg : (buf ++ more).length ≤ g) :
    blockLoop c m g s (buf ++ more) =
      (let r := blockLoop c m f s buf
       let t := blockLoop c m g r.1 (r.2.2 ++ more)
       (t.1, r.2.1 ++ t.2.1, t.2.2)) := by
  induction f generalizing s g buf with
  | zero =>
    obtain rfl : buf = [] := by cases buf with | nil => rfl | cons => simp at hf
    rfl
  | succ f ih =>
    by_cases h : s.blockLen + s.hold ≤ buf.length
    · have hl : (buf ++ more).length = buf.length + more.length := by simp
      obtain ⟨g, rfl⟩ : ∃ k, g = k + 1 := ⟨g - 1, by omega⟩
      have h2 : s.blockLen + s.hold ≤ (buf ++ more).length := by omega
      rw [blockLoop_turn c m g h2, blockLoop_turn c m f h]
      have ht : (buf ++ more).take s.blockLen = buf.take s.blockLen := List.take_append_of_le_length (by omega)
      have hd : (buf ++ more).drop s.blockLen = buf.drop s.blockLen ++ more := List.drop_append_of_le_length (by omega)
      have hdl : (buf.drop s.blockLen).length = buf.length - s.blockLen := by simp
      rw [ht, hd, ih (s := (blockUnit c m s (buf.take s.blockLen)).1) (by simpa using hbs) g (buf.drop s.blockLen)
        (by omega) (by simp; omega)]
      have hrest : (blockLoop c m f (blockUnit c m s (buf.take s.blockLen)).1 (buf.drop s.blockLen)).2.2.length
          ≤ buf.length - s.blockLen := by
        have : ∀ (k : Nat) (u : State) (b : List Byte), (blockLoop c m k u b).2.2.length ≤ b.length := by
          intro k
          induction k with
          | zero => intro u b; exact Nat.le_refl _
          | succ k ihk =>
            intro u b
            by_cases hu : u.blockLen + u.hold ≤ b.length
            · rw [blockLoop_turn c m k hu]
              have := ihk (blockUnit c m u (b.take u.blockLen)).1 (b.drop u.blockLen)
              simp only [List.length_drop] at this
              dsimp only
              omega
            · rw [blockLoop_short c m _ (by omega)]
        have h3 := this f (blockUnit c m s (buf.take s.blockLen)).1 (buf.drop s.blockLen)
        omega
      have hfuel := blockLoop_fuel c m
        (s := (blockLoop c m f (blockUnit c m s (buf.take s.blockLen)).1 (buf.drop s.blockLen)).1)
        (by simpa using hbs) g (g + 1)
        ((blockLoop c m f (blockUnit c m s (buf.take s.blockLen)).1 (buf.drop s.blockLen)).2.2 ++ more)
        (by simp; omega) (by simp; omega)
      dsimp only
      rw [hfuel, List.append_assoc]
    · rw [blockLoop_short c m (f + 1) (buf := buf) (by omega)]
      rfl

/-- How far the loop gets: `(len - hold) / BS` blocks are transformed, and what stays is the rest of the buffer. -/
theorem blockLoop_spec (c : Config) (m : BlockMode) {s : State} (hbs : 0 < s.blockLen) (h16 : s.blockLen ≤ 16) (f : Nat)
    (buf : List Byte) (hf : buf.length ≤ f) :
    (blockLoop c m f s buf).2.1.length = (buf.length - s.hold) / s.blockLen * s.blockLen
      ∧ (blockLoop c m f s buf).2.2 = buf.drop ((buf.length - s.hold) / s.blockLen * s.blockLen) := by
  induction f generalizing s buf with
  | zero =>
    obtain rfl : buf = [] := by cases buf with | nil => rfl | cons => simp at hf
    simp [blockLoop]
  | succ f ih =>
    by_cases h : s.blockLen + s.hold ≤ buf.length
    · rw [blockLoop_turn c m f h]
      have hd : (buf.drop s.blockLen).length = buf.length - s.blockLen := by simp
      have ht : (buf.take s.blockLen).length = s.blockLen := by simp; omega
      obtain ⟨h1, h2⟩ := ih (s := (blockUnit c m s (buf.take s.blockLen)).1) (by simpa using hbs) (by simpa using h16)
        (buf.drop s.blockLen) (by omega)
      simp only [blockUnit_blockLen, blockUnit_hold, hd] at h1 h2
      have hq : (buf.length - s.hold) / s.blockLen = (buf.length - s.blockLen - s.hold) / s.blockLen + 1 := by
        rw [show buf.length - s.hold = (buf.length - s.blockLen - s.hold) + s.blockLen by omega,
          Nat.add_div_right _ hbs]
      constructor
      · simp only [List.length_append, h1, blockUnit_length c m ht h16, hq, Nat.add_mul]
        omega
      · simp only [h2, List.drop_drop, hq, Nat.add_mul]
        congr 1
        omega
    · have hz : (buf.length - s.hold) / s.blockLen = 0 := Nat.div_eq_of_lt (by omega)
      rw [blockLoop_short c m _ (by omega), hz]
      simp

/-- What the loop leaves is shorter than `BS + hold`. -/
theorem blockLoop_rest_length (c : Config) (m : BlockMode) {s : State} (hbs : 0 < s.blockLen) (h16 : s.blockLen ≤ 16)
    (f : Nat) (buf : List Byte) (hf : buf.length ≤ f) :
    (blockLoop c m f s buf).2.2.length < s.blockLen + s.hold := by
  rw [(blockLoop_spec c m hbs h16 f buf hf).2, List.length_drop]
  have h1 := Nat.div_add_mod (buf.length - s.hold) s.blockLen
  have h2 := Nat.mod_lt (buf.length - s.hold) hbs
  rw [Nat.mul_comm] at h1
  omega

/-- `BlockPush` writes `IVT`, `PEND`, `PLEN` and nothing else. -/
theorem blockPush_state (c : Config) (m : BlockMode) (s : State) (input : List Byte) :
    ∃ v p n, (blockPush c m s input).1 = { s with ivt := v, pend := p, plen := n } := by
  obtain ⟨v, h⟩ := blockLoop_state c m (s.pendBytes ++ input).length s (s.pendBytes ++ input)
  exact ⟨v, _, _, by unfold blockPush; dsimp only; rw [h]; rfl⟩

/-- UPDATE's path writes `IVT`, `KSTR`, `KPOS`, `SSTATE`, `PEND`, `PLEN` and nothing else (R44). -/
theorem push_state (c : Config) (s : State) (input : List Byte) :
    ∃ i k p t q n, (push c s input).1 = { s with ivt := i, kstr := k, kpos := p, sstate := t, pend := q, plen := n } := by
  unfold push
  split
  · obtain ⟨i, k, p, t, h⟩ := streamPush_state c _ s input
    exact ⟨i, k, p, t, s.pend, s.plen, h⟩
  · obtain ⟨v, p, n, h⟩ := blockPush_state c _ s input
    exact ⟨v, s.kstr, s.kpos, s.sstate, p, n, h⟩

end Sys2Proof.Machine
end

