-- ==== Sys2Proof/Laws/Commands.lean ====
section
/-!
SUPPORT. What each command can do: for every command, the conditions under which it ends in each of its ways. A proof
about a command cites these and does not unfold it.
-/

namespace Sys2Proof.Machine

/-- `exec` is the commands under the engine's own configuration. -/
theorem exec_eq_execWith (i : Instr) (s : State) : exec i s = execWith engine i s := by cases i <;> rfl

/-- `step` is the port served by the commands under the engine's own configuration. -/
theorem step_eq_serve (s : State) : step s = serve (execWith engine) s := by
  have h : exec = execWith engine := funext fun i => funext fun s => exec_eq_execWith i s
  unfold step
  rw [h]

theorem updateCommand_refused (c : Config) (input : List Byte) {s : State} (h : s.st ≠ .active) :
    updateCommand c input s = failClassA s .paramError := if_pos h

theorem updateCommand_unsound (c : Config) (input : List Byte) {s : State} (h : s.st = .active) (hs : s.sound = false) :
    updateCommand c input s = internalViolation := by simp [updateCommand, h, hs]

theorem updateCommand_overflow (c : Config) (input : List Byte) {s : State} (h : s.st = .active) (hs : s.sound = true)
    (ho : 2 ^ 64 - 1 < s.total.toNat + input.length ∨ 2 ^ 32 - 1 < outLen s input.length false) :
    updateCommand c input s = failClassB s .overflow := by
  unfold updateCommand
  rw [if_neg (by simp [h]), if_neg (by simp [hs])]
  rcases ho with ho | ho
  · rw [if_pos ho]
  · rw [if_pos ho]
    split <;> rfl

theorem updateCommand_ok (c : Config) (input : List Byte) {s : State} (h : s.st = .active) (hs : s.sound = true)
    (h64 : s.total.toNat + input.length ≤ 2 ^ 64 - 1) (h32 : outLen s input.length false ≤ 2 ^ 32 - 1) :
    updateCommand c input s = succeed ((push c s input).1.addTotal input.length) (push c s input).2 0 := by
  unfold updateCommand
  rw [if_neg (by simp [h]), if_neg (by simp [hs]), if_neg (by omega), if_neg (by omega)]

/-- UPDATE ends in one of four ways. -/
theorem updateCommand_cases (c : Config) (input : List Byte) (s : State) :
    (s.st ≠ .active ∧ updateCommand c input s = failClassA s .paramError)
      ∨ (s.st = .active ∧ s.sound = false ∧ updateCommand c input s = internalViolation)
      ∨ (s.st = .active ∧ s.sound = true
          ∧ (2 ^ 64 - 1 < s.total.toNat + input.length ∨ 2 ^ 32 - 1 < outLen s input.length false)
          ∧ updateCommand c input s = failClassB s .overflow)
      ∨ (s.st = .active ∧ s.sound = true ∧ s.total.toNat + input.length ≤ 2 ^ 64 - 1
          ∧ outLen s input.length false ≤ 2 ^ 32 - 1
          ∧ updateCommand c input s = succeed ((push c s input).1.addTotal input.length) (push c s input).2 0) := by
  by_cases h : s.st = .active
  · cases hs : s.sound with
    | false => exact .inr (.inl ⟨h, rfl, updateCommand_unsound c input h hs⟩)
    | true =>
      by_cases ho : 2 ^ 64 - 1 < s.total.toNat + input.length ∨ 2 ^ 32 - 1 < outLen s input.length false
      · exact .inr (.inr (.inl ⟨h, rfl, ho, updateCommand_overflow c input h hs ho⟩))
      · have h1 : s.total.toNat + input.length ≤ 2 ^ 64 - 1 := by
          by_contra hc
          exact ho (.inl (by omega))
        have h2 : outLen s input.length false ≤ 2 ^ 32 - 1 := by
          by_contra hc
          exact ho (.inr (by omega))
        exact .inr (.inr (.inr ⟨h, rfl, h1, h2, updateCommand_ok c input h hs h1 h2⟩))
  · exact .inl ⟨h, updateCommand_refused c input h⟩

/-- FINAL ends in one of four ways. -/
theorem finalCommand_cases (c : Config) (s : State) :
    (s.st ≠ .active ∧ finalCommand c s = failClassA s .paramError)
      ∨ (s.st = .active ∧ s.sound = false ∧ finalCommand c s = internalViolation)
      ∨ (∃ status, s.st = .active ∧ s.sound = true ∧ flush c s = .error status ∧ finalCommand c s = failClassB s status)
      ∨ (∃ t data, s.st = .active ∧ s.sound = true ∧ flush c s = .output t data
          ∧ finalCommand c s = succeed t.finish data 0) := by
  by_cases h : s.st = .active
  · cases hs : s.sound with
    | false => exact .inr (.inl ⟨h, rfl, by simp [finalCommand, h, hs]⟩)
    | true =>
      cases hf : flush c s with
      | error status => exact .inr (.inr (.inl ⟨status, h, rfl, rfl, by simp [finalCommand, h, hs, hf]⟩))
      | output t data => exact .inr (.inr (.inr ⟨t, data, h, rfl, rfl, by simp [finalCommand, h, hs, hf]⟩))
  · exact .inl ⟨h, if_pos h⟩

/-- A FINAL that fails, fails with `ParamError` or `DecodeError` (R180). -/
theorem flush_error {c : Config} {s : State} {status : Status} (h : flush c s = .error status) :
    status = .paramError ∨ status = .decodeError := by
  unfold flush at h
  split at h
  · cases h
  · split at h
    · cases h
    · unfold finalDecPad at h
      split at h
      · cases h
        exact .inl rfl
      · dsimp only at h
        split at h
        · cases h
          exact .inr rfl
        · cases h
    · unfold finalNoPad at h
      split at h
      · cases h
        exact .inl rfl
      · cases h

/-- What `flush` hands to FINAL's tail differs from the state before in `IVT` only. -/
theorem flush_state {c : Config} {s t : State} {data : List Byte} (h : flush c s = .output t data) :
    ∃ v, t = { s with ivt := v } := by
  unfold flush at h
  split at h
  · cases h
    exact ⟨s.ivt, rfl⟩
  · split at h
    · cases h
      exact blockUnit_state c _ s _
    · unfold finalDecPad at h
      split at h
      · cases h
      · dsimp only at h
        split at h
        · cases h
        · cases h
          exact blockUnit_state c _ s _
    · unfold finalNoPad at h
      split at h
      · cases h
      · cases h
        exact ⟨s.ivt, rfl⟩

/-- RESET ends in one of three ways. -/
theorem resetCommand_cases (c : Config) (iv : Option (List Byte)) (s : State) :
    (s.st = .empty ∧ resetCommand c iv s = failClassA s .paramError)
      ∨ (s.st ≠ .empty ∧ resetIVOK s iv = false ∧ resetCommand c iv s = failClassA s .paramError)
      ∨ (s.st ≠ .empty ∧ resetIVOK s iv = true ∧ resetCommand c iv s = succeed (s.loadIV c (optBytes iv)) [] 0) := by
  by_cases h : s.st = .empty
  · exact .inl ⟨h, if_pos h⟩
  · cases hi : resetIVOK s iv with
    | false => exact .inr (.inl ⟨h, rfl, by simp [resetCommand, h, hi]⟩)
    | true => exact .inr (.inr ⟨h, rfl, by simp [resetCommand, h, hi]⟩)

/-- RELEASE ends in one of two ways. -/
theorem releaseCommand_cases (s : State) :
    (s.st = .empty ∧ releaseCommand s = failClassA s .paramError)
      ∨ (s.st ≠ .empty ∧ releaseCommand s = succeed s.clearRegisters [] 0) := by
  by_cases h : s.st = .empty
  · exact .inl ⟨h, if_pos h⟩
  · exact .inr ⟨h, if_neg h⟩

/-- GETOUTLEN ends in one of four ways. -/
theorem getOutLenCommand_cases (n : BitVec 32) (fin : Bool) (s : State) :
    (s.st = .empty ∧ getOutLenCommand n fin s = failClassA s .paramError)
      ∨ (s.st ≠ .empty ∧ s.sound = false ∧ getOutLenCommand n fin s = internalViolation)
      ∨ (s.st ≠ .empty ∧ s.sound = true ∧ 2 ^ 32 - 1 < outLen s n.toNat fin
          ∧ getOutLenCommand n fin s = failClassA s .overflow)
      ∨ (s.st ≠ .empty ∧ s.sound = true ∧ outLen s n.toNat fin ≤ 2 ^ 32 - 1
          ∧ getOutLenCommand n fin s = succeed s [] (outLen s n.toNat fin)) := by
  by_cases h : s.st = .empty
  · exact .inl ⟨h, if_pos h⟩
  · cases hs : s.sound with
    | false => exact .inr (.inl ⟨h, rfl, by simp [getOutLenCommand, h, hs]⟩)
    | true =>
      by_cases ho : 2 ^ 32 - 1 < outLen s n.toNat fin
      · refine .inr (.inr (.inl ⟨h, rfl, ho, ?_⟩))
        unfold getOutLenCommand
        rw [if_neg h, if_neg (by simp [hs]), if_pos ho]
      · refine .inr (.inr (.inr ⟨h, rfl, by omega, ?_⟩))
        unfold getOutLenCommand
        rw [if_neg h, if_neg (by simp [hs]), if_neg ho]

/-- CREATE ends in one of four ways. -/
theorem createCommand_cases (c : Config) (a : CreateArgs) (s : State) :
    (s.st ≠ .empty ∧ createCommand c a s = failClassA s .paramError)
      ∨ (s.st = .empty ∧ a.alg = .reserved ∧ createCommand c a s = failClassA s .paramError)
      ∨ (∃ alg status, s.st = .empty ∧ a.alg = .known alg ∧ firstFailure (createChecks c a alg) = some status
          ∧ createCommand c a s = failClassA s status)
      ∨ (∃ alg, s.st = .empty ∧ a.alg = .known alg ∧ firstFailure (createChecks c a alg) = none
          ∧ createCommand c a s = succeed ((s.configure c a alg).loadIV c (createIV a)) [] 0) := by
  by_cases h : s.st = .empty
  · cases ha : a.alg with
    | reserved => exact .inr (.inl ⟨h, rfl, by simp [createCommand, h, ha]⟩)
    | known alg =>
      cases hf : firstFailure (createChecks c a alg) with
      | some status => exact .inr (.inr (.inl ⟨alg, status, h, rfl, hf, by simp [createCommand, h, ha, hf]⟩))
      | none => exact .inr (.inr (.inr ⟨alg, h, rfl, hf, by simp [createCommand, h, ha, hf]⟩))
  · exact .inl ⟨h, if_pos h⟩

/-- Every check holds exactly when none of them is the first to fail. -/
theorem firstFailure_none {l : List (Bool × Status)} : firstFailure l = none ↔ ∀ p ∈ l, p.1 = true := by
  induction l with
  | nil => simp [firstFailure]
  | cons p rest ih =>
    obtain ⟨b, status⟩ := p
    cases b <;> simp [firstFailure, ih]

end Sys2Proof.Machine
end

