-- ==== Sys2Proof/Laws/Outcomes.lean ====
section
/-!
SUPPORT. Everything an answered command can do, as one list of cases; the invariants of R38 as a proposition; and how
much UPDATE and FINAL emit.
-/

namespace Sys2Proof.Machine

/-- Everything a command that is answered can do, one constructor for each way it ends: the state after it. -/
inductive Answered (c : Config) (s : State) : Instr → State → Prop where
  /-- CREATE with a live session. -/
  | createUnadmitted (a : CreateArgs) (h : s.st ≠ .empty) : Answered c s (.create a) (s.respond .paramError [] 0)
  /-- CREATE with the reserved algorithm. -/
  | createReserved (a : CreateArgs) (h : s.st = .empty) (ha : a.alg = .reserved) :
      Answered c s (.create a) (s.respond .paramError [] 0)
  /-- CREATE with a check that does not hold. -/
  | createFails (a : CreateArgs) (alg : Alg) (status : Status) (h : s.st = .empty) (ha : a.alg = .known alg)
      (hf : firstFailure (createChecks c a alg) = some status) : Answered c s (.create a) (s.respond status [] 0)
  /-- CREATE that makes the session. -/
  | createDone (a : CreateArgs) (alg : Alg) (h : s.st = .empty) (ha : a.alg = .known alg)
      (hf : firstFailure (createChecks c a alg) = none) :
      Answered c s (.create a) (((s.configure c a alg).loadIV c (createIV a)).respond .success [] 0)
  /-- UPDATE outside `ACTIVE`. -/
  | updateUnadmitted (x : List Byte) (h : s.st ≠ .active) : Answered c s (.update x) (s.respond .paramError [] 0)
  /-- UPDATE that overflows. -/
  | updateOverflows (x : List Byte) (h : s.st = .active) (hs : s.sound = true)
      (ho : 2 ^ 64 - 1 < s.total.toNat + x.length ∨ 2 ^ 32 - 1 < outLen s x.length false) :
      Answered c s (.update x) (s.errorEntry.respond .overflow [] 0)
  /-- UPDATE that processes its input. -/
  | updateDone (x : List Byte) (h : s.st = .active) (hs : s.sound = true) (h64 : s.total.toNat + x.length ≤ 2 ^ 64 - 1)
      (h32 : outLen s x.length false ≤ 2 ^ 32 - 1) :
      Answered c s (.update x) (((push c s x).1.addTotal x.length).respond .success (push c s x).2 0)
  /-- FINAL outside `ACTIVE`. -/
  | finalUnadmitted (h : s.st ≠ .active) : Answered c s .final (s.respond .paramError [] 0)
  /-- FINAL that fails. -/
  | finalFails (status : Status) (h : s.st = .active) (hs : s.sound = true) (hf : flush c s = .error status) :
      Answered c s .final (s.errorEntry.respond status [] 0)
  /-- FINAL that ends the message. -/
  | finalDone (t : State) (data : List Byte) (h : s.st = .active) (hs : s.sound = true) (hf : flush c s = .output t data) :
      Answered c s .final (t.finish.respond .success data 0)
  /-- RESET with no session. -/
  | resetUnadmitted (iv : Option (List Byte)) (h : s.st = .empty) : Answered c s (.reset iv) (s.respond .paramError [] 0)
  /-- RESET without the IV it needs. -/
  | resetFails (iv : Option (List Byte)) (h : s.st ≠ .empty) (hi : resetIVOK s iv = false) :
      Answered c s (.reset iv) (s.respond .paramError [] 0)
  /-- RESET that re-arms the session. -/
  | resetDone (iv : Option (List Byte)) (h : s.st ≠ .empty) (hi : resetIVOK s iv = true) :
      Answered c s (.reset iv) ((s.loadIV c (optBytes iv)).respond .success [] 0)
  /-- GETOUTLEN with no session. -/
  | getOutLenUnadmitted (n : BitVec 32) (fin : Bool) (h : s.st = .empty) :
      Answered c s (.getOutLen n fin) (s.respond .paramError [] 0)
  /-- GETOUTLEN of a bound above 32 bits. -/
  | getOutLenOverflows (n : BitVec 32) (fin : Bool) (h : s.st ≠ .empty) (hs : s.sound = true)
      (ho : 2 ^ 32 - 1 < outLen s n.toNat fin) : Answered c s (.getOutLen n fin) (s.respond .overflow [] 0)
  /-- GETOUTLEN that answers the bound. -/
  | getOutLenDone (n : BitVec 32) (fin : Bool) (h : s.st ≠ .empty) (hs : s.sound = true)
      (h32 : outLen s n.toNat fin ≤ 2 ^ 32 - 1) :
      Answered c s (.getOutLen n fin) (s.respond .success [] (outLen s n.toNat fin))
  /-- RELEASE with no session. -/
  | releaseUnadmitted (h : s.st = .empty) : Answered c s .release (s.respond .paramError [] 0)
  /-- RELEASE of the session. -/
  | releaseDone (h : s.st ≠ .empty) : Answered c s .release (s.clearRegisters.respond .success [] 0)

/-- A command that is answered does one of the things of `Answered`. -/
theorem execWith_answered {c : Config} {i : Instr} {s t : State} (h : execWith c i s = .next t) : Answered c s i t := by
  cases i with
  | create a =>
    rcases createCommand_cases c a s with ⟨h1, e⟩ | ⟨h1, h2, e⟩ | ⟨alg, st, h1, h2, h3, e⟩ | ⟨alg, h1, h2, h3, e⟩ <;>
      rw [execWith, e] at h <;> cases h
    · exact .createUnadmitted a h1
    · exact .createReserved a h1 h2
    · exact .createFails a alg st h1 h2 h3
    · exact .createDone a alg h1 h2 h3
  | update x =>
    rcases updateCommand_cases c x s with ⟨h1, e⟩ | ⟨h1, h2, e⟩ | ⟨h1, h2, h3, e⟩ | ⟨h1, h2, h3, h4, e⟩ <;>
      rw [execWith, e] at h <;> cases h
    · exact .updateUnadmitted x h1
    · exact .updateOverflows x h1 h2 h3
    · exact .updateDone x h1 h2 h3 h4
  | final =>
    rcases finalCommand_cases c s with ⟨h1, e⟩ | ⟨h1, h2, e⟩ | ⟨st, h1, h2, h3, e⟩ | ⟨u, d, h1, h2, h3, e⟩ <;>
      rw [execWith, e] at h <;> cases h
    · exact .finalUnadmitted h1
    · exact .finalFails st h1 h2 h3
    · exact .finalDone u d h1 h2 h3
  | reset iv =>
    rcases resetCommand_cases c iv s with ⟨h1, e⟩ | ⟨h1, h2, e⟩ | ⟨h1, h2, e⟩ <;> rw [execWith, e] at h <;> cases h
    · exact .resetUnadmitted iv h1
    · exact .resetFails iv h1 h2
    · exact .resetDone iv h1 h2
  | getOutLen n fin =>
    rcases getOutLenCommand_cases n fin s with ⟨h1, e⟩ | ⟨h1, h2, e⟩ | ⟨h1, h2, h3, e⟩ | ⟨h1, h2, h3, e⟩ <;>
      rw [execWith, e] at h <;> cases h
    · exact .getOutLenUnadmitted n fin h1
    · exact .getOutLenOverflows n fin h1 h2 h3
    · exact .getOutLenDone n fin h1 h2 h3
  | release =>
    rcases releaseCommand_cases s with ⟨h1, e⟩ | ⟨h1, e⟩ <;> rw [execWith, e] at h <;> cases h
    · exact .releaseUnadmitted h1
    · exact .releaseDone h1

/-- What `Answered` lists, a command does: the converse of `execWith_answered`. -/
theorem Answered.execWith {c : Config} {i : Instr} {s t : State} (h : Answered c s i t) : execWith c i s = .next t := by
  cases h with
  | createUnadmitted a h => exact if_pos h
  | createReserved a h ha => simp [Machine.execWith, createCommand, h, ha, failClassA]
  | createFails a alg st h ha hf => simp [Machine.execWith, createCommand, h, ha, hf, failClassA]
  | createDone a alg h ha hf => simp [Machine.execWith, createCommand, h, ha, hf, succeed]
  | updateUnadmitted x h => exact updateCommand_refused c x h
  | updateOverflows x h hs ho => exact updateCommand_overflow c x h hs ho
  | updateDone x h hs h64 h32 => exact updateCommand_ok c x h hs h64 h32
  | finalUnadmitted h => exact if_pos h
  | finalFails st h hs hf => simp [Machine.execWith, finalCommand, h, hs, hf, failClassB]
  | finalDone t d h hs hf => simp [Machine.execWith, finalCommand, h, hs, hf, succeed]
  | resetUnadmitted iv h => exact if_pos h
  | resetFails iv h hi => simp [Machine.execWith, resetCommand, h, hi, failClassA]
  | resetDone iv h hi => simp [Machine.execWith, resetCommand, h, hi, succeed]
  | getOutLenUnadmitted n fin h => exact if_pos h
  | getOutLenOverflows n fin h hs ho =>
    rcases getOutLenCommand_cases n fin s with ⟨h1, _⟩ | ⟨_, h2, _⟩ | ⟨_, _, _, e⟩ | ⟨_, _, h3, _⟩
    · exact absurd h1 h
    · rw [hs] at h2; cases h2
    · exact e
    · omega
  | getOutLenDone n fin h hs h32 =>
    rcases getOutLenCommand_cases n fin s with ⟨h1, _⟩ | ⟨_, h2, _⟩ | ⟨_, _, h3, _⟩ | ⟨_, _, _, e⟩
    · exact absurd h1 h
    · rw [hs] at h2; cases h2
    · omega
    · exact e
  | releaseUnadmitted h => exact if_pos h
  | releaseDone h => exact if_neg h

/-- The invariants (b) to (g) of R38 one by one. -/
theorem State.sound_iff (s : State) : s.sound = true ↔
    (s.mode = .rc4Stream ↔ s.blockLen = 0) ∧ (s.mode = .rc4Stream ↔ s.alg = .rc4) ∧ s.blockLen ≤ 16
      ∧ (s.pad = .none ∨ padOK s.mode = true) ∧ (s.mode = .xts → s.blockLen = 16) ∧ s.plenBounded = true
      ∧ (if keepsKeystream s.mode then s.kpos.toNat < s.blockLen else s.kpos = 0) := by
  have h1 : ∀ P Q : Prop, [Decidable P] → [Decidable Q] → ((decide P == decide Q) = true ↔ (P ↔ Q)) := by
    intro P Q _ _
    by_cases hp : P <;> by_cases hq : Q <;> simp [hp, hq]
  have h2 : ((s.mode == Mode.rc4Stream) == (s.blockLen == 0)) = true ↔ (s.mode = .rc4Stream ↔ s.blockLen = 0) := h1 _ _
  have h3 : ((s.mode == Mode.rc4Stream) == (s.alg == Alg.rc4)) = true ↔ (s.mode = .rc4Stream ↔ s.alg = .rc4) := h1 _ _
  have h4 : (s.mode != Mode.xts || s.blockLen == 16) = true ↔ (s.mode = .xts → s.blockLen = 16) := by
    by_cases h : s.mode = .xts <;> simp [h]
  have h5 : (if keepsKeystream s.mode then decide (s.kpos.toNat < s.blockLen) else s.kpos == 0) = true
      ↔ (if keepsKeystream s.mode then s.kpos.toNat < s.blockLen else s.kpos = 0) := by
    split <;> simp
  unfold State.sound
  rw [Bool.and_eq_true, Bool.and_eq_true, Bool.and_eq_true, Bool.and_eq_true, Bool.and_eq_true, Bool.and_eq_true, h2, h3,
    h4, h5, decide_eq_true_eq, Bool.or_eq_true, beq_iff_eq]
  constructor
  · rintro ⟨⟨⟨⟨⟨⟨a, b⟩, d⟩, e⟩, f⟩, g⟩, i⟩
    exact ⟨a, b, d, e, f, g, i⟩
  · rintro ⟨a, b, d, e, f, g, i⟩
    exact ⟨⟨⟨⟨⟨⟨a, b⟩, d⟩, e⟩, f⟩, g⟩, i⟩

/-- In a true block mode the block size is not 0. -/
theorem State.blockLen_pos {s : State} (hs : s.sound = true) {m : BlockMode} (h : modeClass s.mode = .trueBlock m) :
    0 < s.blockLen := by
  rcases Nat.eq_zero_or_pos s.blockLen with h0 | h0
  · rw [((State.sound_iff s).mp hs).1.mpr h0] at h
    cases h
  · exact h0

/-- The extra block a withholding session keeps back. -/
theorem State.hold_eq (s : State) : s.hold = if s.dir = .decrypt ∧ s.pad = .pkcs7 then s.blockLen else 0 := by
  unfold State.hold State.withholding
  cases s.dir <;> cases s.pad <;> simp

/-- The bound of R34 on `PLEN` in an active session of a true block mode. -/
theorem State.plen_lt {s : State} (hs : s.sound = true) (ha : s.st = .active) {m : BlockMode}
    (h : modeClass s.mode = .trueBlock m) : s.plen.toNat < s.blockLen + s.hold := by
  have h6 := ((State.sound_iff s).mp hs).2.2.2.2.2.1
  unfold State.plenBounded at h6
  simpa [isStream, h, ha] using h6

/-- UPDATE emits what R156 predicts (R158, R175). -/
theorem push_length (c : Config) {s : State} (hs : s.sound = true) (input : List Byte) :
    (push c s input).2.length = outLen s input.length false := by
  unfold push outLen
  dsimp only
  cases hm : modeClass s.mode with
  | stream m => simp
  | trueBlock m =>
    have hspec := blockLoop_spec c m (State.blockLen_pos hs hm) ((State.sound_iff s).mp hs).2.2.1
      (s.pendBytes ++ input).length (s.pendBytes ++ input) (Nat.le_refl _)
    simp only [blockPush]
    rw [hspec.1, List.length_append, State.pendBytes_length, State.hold_eq]
    have hsub := Nat.sub_mul_div (s.plen.toNat + input.length) s.blockLen 1
    rw [Nat.mul_one] at hsub
    cases s.pad <;> cases s.dir <;> simp [hsub]

/-- UPDATE keeps the mode. -/
theorem push_mode (c : Config) (s : State) (input : List Byte) : (push c s input).1.mode = s.mode := by
  obtain ⟨i, k, p, t, q, n, h⟩ := push_state c s input
  rw [h]

end Sys2Proof.Machine
end

