-- ==== Sys2Proof/Laws/PerInstr.lean ====
section
/-!
SUPPORT. The per-instruction family `EncodedHead`: the packet of a command is its descriptor and its payload, and the
low four bits of the descriptor are its opcode (R90, R93, R109).
-/

namespace Sys2Proof.Laws.EncodedHead

/-- The opcode number of R93. -/
def opcode : Instr → Nat
  | .create _ => 1
  | .update _ => 2
  | .final => 3
  | .reset _ => 4
  | .getOutLen _ _ => 5
  | .release => 6

/-- The packet is 8 bytes and the payload, and `W0[3:0]` is the opcode. -/
def Statement (i : Instr) : Prop :=
  (encode i).length = 8 + i.payload.length ∧ i.w0 % 16 = opcode i

theorem encode_length (i : Instr) : (encode i).length = 8 + i.payload.length := by
  simp only [encode, List.length_append, u32le_length]

theorem create (args : CreateArgs) : Statement (.create args) :=
  ⟨encode_length _, by simp only [Instr.w0, opcode]; omega⟩

theorem update (input : List Byte) : Statement (.update input) := ⟨encode_length _, rfl⟩

theorem final : Statement .final := ⟨encode_length _, rfl⟩

theorem reset (iv : Option (List Byte)) : Statement (.reset iv) :=
  ⟨encode_length _, by simp only [Instr.w0, opcode]; omega⟩

theorem getOutLen (addLen : BitVec 32) (fin : Bool) : Statement (.getOutLen addLen fin) :=
  ⟨encode_length _, by simp only [Instr.w0, opcode]; omega⟩

theorem release : Statement .release := ⟨encode_length _, rfl⟩

end Sys2Proof.Laws.EncodedHead
end

