-- ==== Sys2Proof/Laws/Ports.lean ====
section
/-!
SUPPORT. What the data path does not look at: `TOTAL` and the two ports. Changing them first and then transforming is the
same as transforming first and then changing them.
-/

namespace Sys2Proof.Machine

/-- The state with other values of `TOTAL` and of the ports. -/
def State.outer (total : BitVec 64) (cmd : List PortEvent) (rsp : List (List Byte)) (s : State) : State :=
  { s with total := total, cmdPort := cmd, rspPort := rsp }

variable (c : Config) (total : BitVec 64) (cmd : List PortEvent) (rsp : List (List Byte))

theorem byteUnit_outer (m : StreamMode) (s : State) (x : Byte) :
    byteUnit c m (s.outer total cmd rsp) x = ((byteUnit c m s x).1.outer total cmd rsp, (byteUnit c m s x).2) := by
  have hk : (s.outer total cmd rsp).kpos = s.kpos := rfl
  cases m with
  | cfb =>
    have h : cfbRefill c (s.outer total cmd rsp) = (cfbRefill c s).outer total cmd rsp := by
      unfold cfbRefill
      rw [hk]
      split <;> rfl
    simp only [byteUnit, cfbUnit, h]
    rfl
  | cfb8 => rfl
  | ctr =>
    have h : ctrRefill c (s.outer total cmd rsp) = (ctrRefill c s).outer total cmd rsp := by
      unfold ctrRefill
      rw [hk]
      split <;> rfl
    simp only [byteUnit, ctrUnit, h]
    rfl
  | ofb =>
    have h : ofbRefill c (s.outer total cmd rsp) = (ofbRefill c s).outer total cmd rsp := by
      unfold ofbRefill
      rw [hk]
      split <;> rfl
    simp only [byteUnit, ofbUnit, h]
    rfl
  | rc4 => rfl

theorem streamPush_outer (m : StreamMode) (s : State) (input : List Byte) :
    streamPush c m (s.outer total cmd rsp) input
      = ((streamPush c m s input).1.outer total cmd rsp, (streamPush c m s input).2) := by
  induction input generalizing s with
  | nil => rfl
  | cons x rest ih => simp only [streamPush, byteUnit_outer, ih]

theorem blockUnit_outer (m : BlockMode) (s : State) (b : List Byte) :
    blockUnit c m (s.outer total cmd rsp) b = ((blockUnit c m s b).1.outer total cmd rsp, (blockUnit c m s b).2) := by
  have hd : (s.outer total cmd rsp).dir = s.dir := rfl
  cases m with
  | ecb =>
    simp only [blockUnit, ecbUnit, hd]
    split <;> rfl
  | cbc =>
    simp only [blockUnit, cbcUnit, hd]
    split <;> rfl
  | xts => rfl

theorem blockLoop_outer (m : BlockMode) (fuel : Nat) (s : State) (buf : List Byte) :
    blockLoop c m fuel (s.outer total cmd rsp) buf
      = ((blockLoop c m fuel s buf).1.outer total cmd rsp, (blockLoop c m fuel s buf).2) := by
  induction fuel generalizing s buf with
  | zero => rfl
  | succ fuel ih =>
    have hb : (s.outer total cmd rsp).blockLen = s.blockLen := rfl
    have hh : (s.outer total cmd rsp).hold = s.hold := rfl
    unfold blockLoop
    rw [hb, hh]
    split
    · rw [blockUnit_outer]
      dsimp only
      rw [ih]
    · rfl

/-- UPDATE's path looks at neither `TOTAL` nor the ports. -/
theorem push_outer (s : State) (input : List Byte) :
    push c (s.outer total cmd rsp) input = ((push c s input).1.outer total cmd rsp, (push c s input).2) := by
  have hm : (s.outer total cmd rsp).mode = s.mode := rfl
  have hp : (s.outer total cmd rsp).pendBytes = s.pendBytes := rfl
  unfold push
  rw [hm]
  split
  · exact streamPush_outer c total cmd rsp _ s input
  · unfold blockPush
    dsimp only
    rw [hp, blockLoop_outer]
    rfl

/-- The same change of the state that FINAL's body answers, where it answers one. -/
def Flushed.outer (total : BitVec 64) (cmd : List PortEvent) (rsp : List (List Byte)) : Flushed → Flushed
  | .output t data => .output (t.outer total cmd rsp) data
  | .error status => .error status

/-- FINAL's body looks at neither `TOTAL` nor the ports. -/
theorem flush_outer (s : State) : flush c (s.outer total cmd rsp) = (flush c s).outer total cmd rsp := by
  have h0 : (s.outer total cmd rsp).mode = s.mode := rfl
  have h1 : (s.outer total cmd rsp).pad = s.pad := rfl
  have h2 : (s.outer total cmd rsp).dir = s.dir := rfl
  have h3 : (s.outer total cmd rsp).blockLen = s.blockLen := rfl
  have h4 : (s.outer total cmd rsp).pendBytes = s.pendBytes := rfl
  have h5 : (s.outer total cmd rsp).plen = s.plen := rfl
  unfold flush
  rw [h0, h1, h2]
  split
  · rfl
  · split
    · simp only [finalEncPad, h3, h4, blockUnit_outer, Flushed.outer]
    · simp only [finalDecPad, h3, h4, h5, blockUnit_outer]
      split
      · rfl
      · split <;> rfl
    · simp only [finalNoPad, h5]
      split <;> rfl

end Sys2Proof.Machine
end

