-- ==== Sys2Proof/Machine/TextForm.lean ====
section
/-!
DEFINITION. The text form of commands and responses (30_encoding.md R112): a notation for packets, one command a line.
`assemble` reads a line, with its operands in any order; `Instr.text` writes one. Log entry 13.
-/

namespace Sys2Proof.Machine

/-- The digits of R112's hexadecimal sequences. -/
def hexDigits : List Char := "0123456789abcdef".toList

/-- A byte sequence as two digits a byte, first byte first, or `-` when empty (R112). -/
def bytesText (l : List Byte) : List Char :=
  if l.isEmpty then "-".toList
  else l.flatMap fun b => [hexDigits.getD (b.toNat / 16) '0', hexDigits.getD (b.toNat % 16) '0']

/-- A number in decimal. -/
def natText (n : Nat) : List Char := Nat.toDigits 10 n

/-- R112's names of the algorithms; the reserved code is written `7` (95_test_vectors.md V10). -/
def AlgField.text : AlgField → List Char
  | .known .aes => "AES".toList
  | .known .des => "DES".toList
  | .known .tripleDes => "3DES".toList
  | .known .cast => "CAST".toList
  | .known .rc4 => "RC4".toList
  | .known .rc2 => "RC2".toList
  | .known .blowfish => "BLOWFISH".toList
  | .reserved => "7".toList

/-- R112's names of the modes. -/
def Mode.text : Mode → List Char
  | .ecb => "ECB".toList
  | .cbc => "CBC".toList
  | .cfb => "CFB".toList
  | .cfb8 => "CFB8".toList
  | .ctr => "CTR".toList
  | .ofb => "OFB".toList
  | .xts => "XTS".toList
  | .rc4Stream => "RC4".toList

/-- An operand ` key=value`. -/
def operandText (key : String) (value : List Char) : List Char := ' ' :: key.toList ++ '=' :: value

/-- An optional operand: nothing when it is omitted. -/
def optionText (key : String) : Option (List Char) → List Char
  | none => []
  | some value => operandText key value

/-- The line of a command (R112). -/
def Instr.text : Instr → List Char
  | .create a =>
    "CREATE".toList
      ++ operandText "dir" (match a.dir with | .encrypt => "enc".toList | .decrypt => "dec".toList)
      ++ operandText "alg" (AlgField.text a.alg)
      ++ operandText "mode" (Mode.text a.mode)
      ++ operandText "pad" (match a.pad with | .none => "none".toList | .pkcs7 => "pkcs7".toList)
      ++ operandText "ctr" (match a.ctrBE with | .little => "le".toList | .big => "be".toList)
      ++ operandText "key" (bytesText a.key)
      ++ optionText "iv" (a.iv.map bytesText)
      ++ optionText "tweak" (a.tweak.map bytesText)
      ++ optionText "rounds" (a.rounds.map fun n => natText n.toNat)
  | .update input => "UPDATE".toList ++ operandText "in" (bytesText input)
  | .final => "FINAL".toList
  | .reset iv => "RESET".toList ++ optionText "iv" (iv.map bytesText)
  | .getOutLen addLen fin =>
    "GETOUTLEN".toList ++ operandText "add" (natText addLen.toNat) ++ operandText "final" (if fin then ['1'] else ['0'])
  | .release => "RELEASE".toList

/-- The words of a line between single separators. -/
def splitWords (sep : Char) : List Char → List (List Char)
  | [] => [[]]
  | ch :: rest =>
    match splitWords sep rest with
    | [] => [[ch]]
    | w :: ws => if ch = sep then [] :: w :: ws else (ch :: w) :: ws

/-- The value of a digit below `base`. -/
def digitValue (base : Nat) (ch : Char) : Option Nat :=
  let v := hexDigits.findIdx (· == ch)
  if v < base then some v else none

/-- A decimal number. -/
def parseNat (w : List Char) : Option Nat :=
  if w.isEmpty then none
  else w.foldl (fun acc ch => acc.bind fun n => (digitValue 10 ch).map fun d => 10 * n + d) (some 0)

/-- Hexadecimal digits, two a byte. -/
def parseHexPairs : List Char → Option (List Byte)
  | [] => some []
  | [_] => none
  | hi :: lo :: rest =>
    match digitValue 16 hi, digitValue 16 lo, parseHexPairs rest with
    | some h, some l, some bytes => some (BitVec.ofNat 8 (16 * h + l) :: bytes)
    | _, _, _ => none

/-- A byte sequence, `-` for the empty one (R112). -/
def parseBytes (w : List Char) : Option (List Byte) :=
  if w = ['-'] then some [] else if w.isEmpty then none else parseHexPairs w

/-- The value of the operand `key` among the words of a line, if it is there. -/
def operandOf (key : String) (words : List (List Char)) : Option (List Char) :=
  words.findSome? fun w => if (key.toList ++ ['=']).isPrefixOf w then some (w.drop (key.length + 1)) else none

/-- Every operand of the line is one the command has. -/
def operandsKnown (keys : List String) (words : List (List Char)) : Bool :=
  words.all fun w => keys.any fun k => (k.toList ++ ['=']).isPrefixOf w

/-- An operand that must be there, read by `parse`. -/
def required {α : Type} (parse : List Char → Option α) (w : Option (List Char)) : Option α := w.bind parse

/-- An operand that may be omitted, read by `parse` where it is there. -/
def optional {α : Type} (parse : List Char → Option α) : Option (List Char) → Option (Option α)
  | none => some none
  | some w => (parse w).map some

/-- The value named by a word in a list of names. -/
def named {α : Type} (table : List (String × α)) (w : List Char) : Option α :=
  (table.find? fun p => p.1.toList == w).map (·.2)

/-- R112: `dir=`. -/
def parseDir : List Char → Option Dir := named [("enc", .encrypt), ("dec", .decrypt)]

/-- R112: `alg=`. -/
def parseAlg : List Char → Option AlgField :=
  named [("AES", .known .aes), ("DES", .known .des), ("3DES", .known .tripleDes), ("CAST", .known .cast),
    ("RC4", .known .rc4), ("RC2", .known .rc2), ("BLOWFISH", .known .blowfish), ("7", .reserved)]

/-- R112: `mode=`. -/
def parseMode : List Char → Option Mode :=
  named [("ECB", .ecb), ("CBC", .cbc), ("CFB", .cfb), ("CFB8", .cfb8), ("CTR", .ctr), ("OFB", .ofb), ("XTS", .xts),
    ("RC4", .rc4Stream)]

/-- R112: `pad=`. -/
def parsePad : List Char → Option Padding := named [("none", .none), ("pkcs7", .pkcs7)]

/-- R112: `ctr=`. -/
def parseCtr : List Char → Option Endian := named [("le", .little), ("be", .big)]

/-- A 32-bit number. -/
def parseWord32 (w : List Char) : Option (BitVec 32) :=
  (parseNat w).bind fun n => if n < 2 ^ 32 then some (BitVec.ofNat 32 n) else none

/-- The operands of a CREATE line. -/
def assembleCreate (ws : List (List Char)) : Option Instr :=
  if !operandsKnown ["dir", "alg", "mode", "pad", "ctr", "key", "iv", "tweak", "rounds"] ws then none
  else do
    let dir ← required parseDir (operandOf "dir" ws)
    let alg ← required parseAlg (operandOf "alg" ws)
    let mode ← required parseMode (operandOf "mode" ws)
    let pad ← required parsePad (operandOf "pad" ws)
    let ctr ← optional parseCtr (operandOf "ctr" ws)
    let key ← required parseBytes (operandOf "key" ws)
    let iv ← optional parseBytes (operandOf "iv" ws)
    let tweak ← optional parseBytes (operandOf "tweak" ws)
    let rounds ← optional parseWord32 (operandOf "rounds" ws)
    some (.create { dir, alg, mode, pad, ctrBE := ctr.getD .little, key, iv, tweak, rounds })

/-- The command of a line (R112), if the line is one. -/
def assemble (line : List Char) : Option Instr :=
  match splitWords ' ' line with
  | [] => none
  | m :: ws =>
    if m = "CREATE".toList then assembleCreate ws
    else if m = "UPDATE".toList then
      if operandsKnown ["in"] ws then (required parseBytes (operandOf "in" ws)).map .update else none
    else if m = "FINAL".toList then if ws.isEmpty then some .final else none
    else if m = "RESET".toList then
      if operandsKnown ["iv"] ws then (optional parseBytes (operandOf "iv" ws)).map .reset else none
    else if m = "GETOUTLEN".toList then
      if operandsKnown ["add", "final"] ws then do
        let add ← required parseWord32 (operandOf "add" ws)
        let fin ← required (named [("0", false), ("1", true)]) (operandOf "final" ws)
        some (.getOutLen add fin)
      else none
    else if m = "RELEASE".toList then if ws.isEmpty then some .release else none
    else none

/-- R111's names of the statuses. -/
def Status.text : Status → List Char
  | .success => "Success".toList
  | .paramError => "ParamError".toList
  | .bufferTooSmall => "BufferTooSmall".toList
  | .memoryFailure => "MemoryFailure".toList
  | .alignmentError => "AlignmentError".toList
  | .decodeError => "DecodeError".toList
  | .unimplemented => "Unimplemented".toList
  | .overflow => "Overflow".toList
  | .rngFailure => "RNGFailure".toList

/-- A response line `-> <StatusName> [out=<hex>] [value=<n>]` (R112); the value is written for an answered GETOUTLEN. -/
def responseText (status : Status) (data : List Byte) (value : Option Nat) : List Char :=
  "-> ".toList ++ Status.text status ++ (if data.isEmpty then [] else operandText "out" (bytesText data))
    ++ optionText "value" (value.map natText)

end Sys2Proof.Machine
end

