-- ==== Sys2Proof/Tests/Toy.lean ====
section
/-!
SUPPORT. The toy primitive `TOY` of the spec's test vectors (95_test_vectors.md section 2): a configuration on which
the vectors can be checked and which meets R67 and R70.
-/

namespace Sys2Proof.Tests

open Sys2Proof.Machine

/-- `K[i mod len(K)]` for `i` in `0..n-1`. -/
def toyMask (key : List Byte) (n : Nat) : List Byte := (List.range n).map fun i => key.getD (i % key.length) 0#8

/-- `i + 1` for `i` in `0..n-1`. -/
def toyRamp (n : Nat) : List Byte := (List.range n).map fun i => BitVec.ofNat 8 (i + 1)

/-- One place towards index 0. -/
def toyRotate : List Byte → List Byte
  | [] => []
  | b :: t => t ++ [b]

/-- One place away from index 0. -/
def toyUnrotate (l : List Byte) : List Byte := (toyRotate l.reverse).reverse

/-- `TOY`'s `EncBlock`. -/
def toyEnc (key b : List Byte) : List Byte :=
  List.zipWith (· + ·) (toyRotate (List.zipWith (· ^^^ ·) b (toyMask key b.length))) (toyRamp b.length)

/-- `TOY`'s `DecBlock`. -/
def toyDec (key b : List Byte) : List Byte :=
  List.zipWith (· ^^^ ·) (toyUnrotate (List.zipWith (· - ·) b (toyRamp b.length))) (toyMask key b.length)

@[simp] theorem toyMask_length (key : List Byte) (n : Nat) : (toyMask key n).length = n := by simp [toyMask]

@[simp] theorem toyRamp_length (n : Nat) : (toyRamp n).length = n := by simp [toyRamp]

@[simp] theorem toyRotate_length (l : List Byte) : (toyRotate l).length = l.length := by cases l <;> simp [toyRotate]

@[simp] theorem toyUnrotate_length (l : List Byte) : (toyUnrotate l).length = l.length := by simp [toyUnrotate]

@[simp] theorem toyEnc_length (key b : List Byte) : (toyEnc key b).length = b.length := by simp [toyEnc]

@[simp] theorem toyDec_length (key b : List Byte) : (toyDec key b).length = b.length := by simp [toyDec]

theorem toyRotate_append (l : List Byte) (b : Byte) : toyRotate (b :: l) = l ++ [b] := rfl

@[simp] theorem toyUnrotate_toyRotate (l : List Byte) : toyUnrotate (toyRotate l) = l := by
  cases l with
  | nil => rfl
  | cons b t => simp [toyUnrotate, toyRotate]

@[simp] theorem toyRotate_toyUnrotate (l : List Byte) : toyRotate (toyUnrotate l) = l := by
  have h := toyUnrotate_toyRotate l.reverse
  have h2 : (toyUnrotate (toyRotate l.reverse)).reverse = l := by rw [h, List.reverse_reverse]
  simpa [toyUnrotate] using h2

/-- An element-wise operation and its inverse cancel along a sequence of one length. -/
theorem zipWith_cancel {f g : Byte → Byte → Byte} (hfg : ∀ a k, g (f a k) k = a) :
    ∀ (l m : List Byte), l.length = m.length → List.zipWith g (List.zipWith f l m) m = l
  | [], [], _ => rfl
  | a :: l, k :: m, h => by
    simp only [List.zipWith_cons_cons, hfg]
    rw [zipWith_cancel hfg l m (by simpa using h)]
  | [], _ :: _, h => by simp at h
  | _ :: _, [], h => by simp at h

theorem toyDec_toyEnc (key b : List Byte) : toyDec key (toyEnc key b) = b := by
  unfold toyDec
  rw [toyEnc_length]
  unfold toyEnc
  rw [zipWith_cancel (fun a k => by simp) _ _ (by simp), toyUnrotate_toyRotate,
    zipWith_cancel (fun a k => by simp) _ _ (by simp)]

theorem toyEnc_toyDec (key b : List Byte) : toyEnc key (toyDec key b) = b := by
  unfold toyEnc
  rw [toyDec_length]
  unfold toyDec
  rw [zipWith_cancel (fun a k => by simp) _ _ (by simp), toyRotate_toyUnrotate,
    zipWith_cancel (fun a k => by simp) _ _ (by simp)]

/-- A length-preserving function on sequences as a function on vectors. -/
def onVector (f : List Byte → List Byte) (hf : ∀ l, (f l).length = l.length) {n : Nat} (v : Vector Byte n) : Vector Byte n :=
  ⟨⟨f v.toList⟩, by simp [hf]⟩

/-- `TOY`'s block permutation. -/
def toyPerm (key : List Byte) (n : Nat) : Equiv.Perm (Vector Byte n) where
  toFun := onVector (toyEnc key) (toyEnc_length key)
  invFun := onVector (toyDec key) (toyDec_length key)
  left_inv v := by
    apply Vector.toList_inj.mp
    exact toyDec_toyEnc key v.toList
  right_inv v := by
    apply Vector.toList_inj.mp
    exact toyEnc_toyDec key v.toList

/-- `TOY` as a configuration, with `XtsTweakInit` = `Identity`. -/
def toy : Config :=
  { engine with
    schedule := fun alg key _ => if alg = .rc4 then [key.foldl (· + ·) 0#8] else key
    cipher := fun _ key n => toyPerm key n
    streamStep := fun _ s => let s' := 5#8 * s.headD 0#8 + 1#8; (s', [s'])
    xtsTweakInit := identityTweak }

/-- `TOY` with `XtsTweakInit` = `EncData`. -/
def toyEncData : Config := { toy with xtsTweakInit := encDataTweak toy }

theorem toy_legal : toy.Legal where
  rc4_zero := rfl
  block_pos a h := by cases a <;> first | exact absurd rfl h | decide
  block_le a := by cases a <;> decide

end Sys2Proof.Tests
end

