-- ==== Sys2Proof/Tests/Slice0.lean ====
section
/-!
SUPPORT. The model's own tests. Expected values are the spec's: vectors V<n> and programs P<n> of 95_test_vectors.md,
examples of the rules, or hand calculation where the comment says so. The last part holds, for each statement with
hypotheses, values that meet them all.
-/

namespace Sys2Proof.Tests

open Sys2Proof.Machine Sys2Proof.Claims

/-! ### WellFormed: each check refuses an ill-formed term -/

theorem test_wf_refuses_long_key :
    ¬(Instr.create ⟨.encrypt, .none, .known .des, .ecb, .little, none, zeros 65536, none, none⟩).WellFormed := by
  simp [Instr.WellFormed, Instr.wf, keyLenFits]

theorem test_wf_refuses_long_iv :
    ¬(Instr.create ⟨.encrypt, .none, .known .des, .ecb, .little, none, [], some (zeros 256), none⟩).WellFormed := by
  simp [Instr.WellFormed, Instr.wf, optLenFits]

theorem test_wf_refuses_long_tweak :
    ¬(Instr.create ⟨.encrypt, .none, .known .des, .ecb, .little, none, [], none, some (zeros 256)⟩).WellFormed := by
  simp [Instr.WellFormed, Instr.wf, optLenFits]

theorem test_wf_refuses_long_input : ¬(Instr.update (zeros (2 ^ 32))).WellFormed := by
  simp [Instr.WellFormed, Instr.wf, inputLenFits]

theorem test_wf_refuses_long_reset_iv : ¬(Instr.reset (some (zeros 256))).WellFormed := by
  simp [Instr.WellFormed, Instr.wf, optLenFits]

/-! ### Decoding: words written out from R91, R92 and R100 to R105 (V1, V2) -/

/-- Key `0102030405060708` (V10). -/
def k8 : List Byte := [1, 2, 3, 4, 5, 6, 7, 8]

/-- IV `1011121314151617` (V10). -/
def iv8 : List Byte := [0x10, 0x11, 0x12, 0x13, 0x14, 0x15, 0x16, 0x17]

/-- Key `01 02 ... 10` (V10). -/
def k16 : List Byte := [1, 2, 3, 4, 5, 6, 7, 8, 9, 10, 11, 12, 13, 14, 15, 16]

/-- Tweak `f0 f1 ... ff` (V38). -/
def tw16 : List Byte :=
  [0xf0, 0xf1, 0xf2, 0xf3, 0xf4, 0xf5, 0xf6, 0xf7, 0xf8, 0xf9, 0xfa, 0xfb, 0xfc, 0xfd, 0xfe, 0xff]

theorem test_decode_create_xts :
    decode ([0x01, 0x4c, 0, 0, 0x10, 0, 0, 0x10] ++ k16 ++ tw16)
      = .instr (.create ⟨.encrypt, .none, .known .aes, .xts, .little, none, k16, none, some tw16⟩) := by decide

theorem test_decode_create_rounds :
    decode ([0x41, 0x81, 0, 0, 0x08, 0, 0, 0, 0x0c, 0, 0, 0] ++ k8)
      = .instr (.create ⟨.encrypt, .none, .known .rc2, .ecb, .little, some 12, k8, none, none⟩) := by decide

theorem test_decode_update :
    decode [0x02, 0, 0, 0, 0x03, 0, 0, 0, 0xaa, 0xbb, 0xcc] = .instr (.update [0xaa, 0xbb, 0xcc]) := by decide

theorem test_decode_final : decode [0x03, 0, 0, 0, 0, 0, 0, 0] = .instr .final := by decide

theorem test_decode_reset : decode ([0x04, 0x20, 0, 0, 0x08, 0, 0, 0] ++ iv8) = .instr (.reset (some iv8)) := by decide

theorem test_decode_getOutLen :
    decode [0x05, 0, 0, 0, 0xff, 0xff, 0xff, 0xff] = .instr (.getOutLen 4294967295 false) := by decide

theorem test_decode_release : decode [0x06, 0, 0, 0, 0, 0, 0, 0] = .instr .release := by decide

theorem test_decode_too_short : decode [0x02, 0, 0, 0, 0, 0, 0] = .tooShort := by decide

theorem test_decode_reserved_opcode : decode [0x07, 0, 0, 0, 0, 0, 0, 0] = .reservedOpcode := by decide

theorem test_decode_must_be_zero : decode [0x03, 0, 0x02, 0, 0, 0, 0, 0] = .mustBeZero := by decide

theorem test_decode_presence : decode ([0x04, 0, 0, 0, 0x08, 0, 0, 0] ++ iv8) = .presenceMismatch := by decide

theorem test_decode_length : decode [0x02, 0, 0, 0, 0x04, 0, 0, 0, 0xaa, 0xbb, 0xcc] = .lengthMismatch := by decide

theorem test_encode_create_ctr :
    encode (.create ⟨.decrypt, .none, .known .des, .ctr, .big, none, k8, some iv8, none⟩)
      = [0x51, 0x38, 0, 0, 0x08, 0, 0x08, 0] ++ k8 ++ iv8 := by decide

/-- `opcode_table.json`: the word `0x0000000b00010005` of the row GETOUTLEN (V1). -/
theorem test_table_word_getOutLen : decodeTableWord 64 0x0000000b00010005 = some (.getOutLen 11 true) := by decide

/-- The row RELEASE, by its `match`. -/
theorem test_table_word_release : decodeTableWord 64 6 = some .release := by decide

/-! ### Commands on the toy primitive -/

/-- What holds of the next state, false where there is none. -/
def ends (o : Host.Outcome State Fault Refusal) (p : State → Bool) : Bool :=
  match o with
  | .next t => p t
  | .fault _ => false
  | .refused _ => false

/-- An ACTIVE DES session under `k8`, ECB, encrypt, no padding, nothing pending. -/
def desEcb : State := { State.reset with st := .active, alg := .des, bs := 8, keySched := k8 }

/-- The same in another mode, with `iv8` loaded. -/
def desMode (m : Mode) : State := { desEcb with mode := m, ivt0 := fit 16 iv8, ivt := fit 16 iv8 }

/-- An ACTIVE AES session under `k16`, XTS, with the tweak `tw16` as the first per-block tweak. -/
def aesXts : State :=
  { State.reset with st := .active, mode := .xts, bs := 16, keySched := k16, ivt0 := fit 16 tw16, ivt := fit 16 tw16 }

/-- An ACTIVE RC4 session under key "Key" (V39b). -/
def rc4State : State := { State.reset with st := .active, alg := .rc4, mode := .rc4Stream, keySched := [41], sstate := [41] }

/-- V11, fifth vector: AES XTS. -/
theorem test_create_xts :
    ends (execWith toy (.create ⟨.encrypt, .none, .known .aes, .xts, .little, none, k16, none, some tw16⟩) State.reset)
      (fun t => t.st == .active && t.bs == 16 && t.ivtBytes == tw16 && t.keySched == k16
        && t.rspPort == [[0, 0, 0, 0, 0, 0, 0, 0, 0, 0, 0, 0]]) = true := by decide

/-- V10, row 22: `ROUNDS` for RC2, whose rounds are not variable. -/
theorem test_create_rounds_refused :
    ends (execWith toy (.create ⟨.encrypt, .none, .known .rc2, .ecb, .little, some 12, k8, none, none⟩) State.reset)
      (fun t => t == { State.reset with rspPort := [[1, 0, 0, 0, 0, 0, 0, 0, 0, 0, 0, 0]] }) = true := by decide

/-- V23, second block: CBC chains on the block before. -/
theorem test_update_cbc :
    ends (execWith toy (.update [0, 1, 2, 3, 4, 5, 6, 7, 0, 1, 2, 3, 4, 5, 6, 7]) (desMode .cbc))
      (fun t => t.ivtBytes == [0x17, 0x18, 0x21, 0x1e, 0x23, 0x24, 0x1d, 0x1a] && t.total == 16
        && (readResponse (t.rspPort.getLastD [])).data
          == [0x13, 0x15, 0x17, 0x19, 0x1b, 0x1d, 0x1f, 0x19, 0x17, 0x18, 0x21, 0x1e, 0x23, 0x24, 0x1d, 0x1a]) = true := by
  decide

/-- The example of R209 and V32: the Big counter after one keystream block. -/
theorem test_update_ctr :
    ends (execWith toy (.update [0xaa, 0xbb, 0xcc]) { desMode .ctr with ctrBE := .big })
      (fun t => t.ivtBytes == [0x10, 0x11, 0x12, 0x13, 0x14, 0x15, 0x16, 0x18] && t.kpos == 3
        && (readResponse (t.rspPort.getLastD [])).data == [0xbe, 0xa8, 0xd6]) = true := by decide

/-- The example of R206: CFB overwrites the feedback register in place. -/
theorem test_unit_cfb :
    (streamPush toy .cfb (desMode .cfb) [0xaa, 0xbb, 0xcc]).1.ivtBytes = [0xbe, 0xa8, 0xd6, 0x13, 0x14, 0x15, 0x16, 0x17] := by
  decide

/-- V34: CFB8 shifts towards index 0. -/
theorem test_unit_cfb8 :
    streamPush toy .cfb8 (desMode .cfb8) [0xaa, 0xbb]
      = ((desMode .cfb8).setIvt [0x12, 0x13, 0x14, 0x15, 0x16, 0x17, 0xbe, 0xaa], [0xbe, 0xaa]) := by decide

/-- The example of R208: the running keystream block of OFB. -/
theorem test_unit_ofb :
    (streamPush toy .ofb (desMode .ofb) [0xaa, 0xbb, 0xcc]).2 = [0xbe, 0xa8, 0xd6] := by decide

/-- The example of R220: one XTS block and the next tweak. -/
theorem test_unit_xts :
    blockUnit toy .xts aesXts
        [0x20, 0x21, 0x22, 0x23, 0x24, 0x25, 0x26, 0x27, 0x28, 0x29, 0x2a, 0x2b, 0x2c, 0x2d, 0x2e, 0x2f]
      = (aesXts.setIvt [0x67, 0xe3, 0xe5, 0xe7, 0xe9, 0xeb, 0xed, 0xef, 0xf1, 0xf3, 0xf5, 0xf7, 0xf9, 0xfb, 0xfd, 0xff],
          [0x23, 0x24, 0x25, 0x2a, 0x2f, 0x28, 0x29, 0x16, 0x1b, 0x1c, 0x1d, 0x12, 0x17, 0x10, 0x31, 0x1e]) := by decide

/-- V37, second row: the reduction of `MulAlpha`. -/
theorem test_mulAlpha_reduces :
    mulAlpha (0x80 :: zeros 14 ++ [0x80]) = [0x87, 0x01] ++ zeros 14 := by decide

/-- The example of R230. -/
theorem test_unit_rc4 : (streamPush toy .rc4 rc4State [0, 0, 0xff]).2 = [0xce, 0x07, 0xdb] := by decide

/-- V40, length 1: the padded last block of an ECB encryption. -/
theorem test_final_pads :
    ends (execWith toy .final { desEcb with pad := .pkcs7, pend := fit 31 [0x41], plen := 1, total := 1 })
      (fun t => t.st == .finalized && t.plen == 0
        && (readResponse (t.rspPort.getLastD [])).data == [0x06, 0x06, 0x06, 0x06, 0x06, 0x06, 0x16, 0x48]) = true := by decide

/-- V44: a fill that is not uniform. -/
theorem test_final_decode_error :
    ends (execWith toy .final
        { desEcb with
          dir := .decrypt, pad := .pkcs7, pend := fit 31 [0x41, 0x42, 0x43, 0x44, 0x0a, 0x0b, 0x12, 0x48], plen := 8, total := 8 })
      (fun t => t == { desEcb with
          dir := .decrypt, pad := .pkcs7, st := .errored, rspPort := [[5, 0, 0, 0, 0, 0, 0, 0, 0, 0, 0, 0]] }) = true := by decide

/-- V61: RESET from `FINALIZED` with an IV of 7 bytes is refused. -/
theorem test_reset_short_iv :
    ends (execWith toy (.reset (some (iv8.take 7))) { desMode .cbc with st := .finalized })
      (fun t => t == { desMode .cbc with st := .finalized, rspPort := [[1, 0, 0, 0, 0, 0, 0, 0, 0, 0, 0, 0]] }) = true := by
  decide

/-- V39b: RESET restarts the RC4 keystream. -/
theorem test_reset_rc4 :
    ends (execWith toy (.reset none) { rc4State with st := .finalized, sstate := [0x8a], total := 5 })
      (fun t => t.st == .active && t.sstate == [41] && t.total == 0) = true := by decide

/-- V55, with `PLEN = 5`: the largest `ADDLEN` whose padded bound fits, and the next one. -/
theorem test_getOutLen_edge :
    (ends (execWith toy (.getOutLen 4294967282 true)
        { desMode .cbc with pad := .pkcs7, pend := fit 31 (zeros 5), plen := 5, total := 5 })
      (fun t => t.rspPort == [[0, 0, 0, 0, 0, 0, 0, 0, 0xf8, 0xff, 0xff, 0xff]])
    && ends (execWith toy (.getOutLen 4294967283 true)
        { desMode .cbc with pad := .pkcs7, pend := fit 31 (zeros 5), plen := 5, total := 5 })
      (fun t => t.rspPort == [[7, 0, 0, 0, 0, 0, 0, 0, 0, 0, 0, 0]])) = true := by decide

/-- V63: RELEASE, then a second RELEASE. -/
theorem test_release_twice :
    ends (execWith toy .release { desMode .cbc with plen := 5, total := 5 })
      (fun t => t == { State.reset with rspPort := [[0, 0, 0, 0, 0, 0, 0, 0, 0, 0, 0, 0]] }
        && ends (execWith toy .release t) (fun u => u.st == .empty && u.rspPort.length == 2)) = true := by decide

/-- V60: a packet taken from the port by `step` in `EMPTY`. -/
theorem test_step_in_empty :
    ends (step (State.reset.withFetchWord 64 3))
      (fun t => t == { State.reset with rspPort := [[1, 0, 0, 0, 0, 0, 0, 0, 0, 0, 0, 0]] }) = true := by decide

/-- P1 in small: `ENCRYPT` then `DECRYPT` of nine bytes with CBC and PKCS7 (the ciphertext of P3). -/
theorem test_message_cbc :
    ((encryptMessage (execWith toy) ⟨.encrypt, .pkcs7, .known .des, .cbc, .little, none, k8, some iv8, none⟩
        [0x41, 0x42, 0x43, 0x44, 0x45, 0x46, 0x47, 0x48, 0x49] State.reset).map (·.2)
      = some ⟨0, [0x52, 0x54, 0x56, 0x58, 0x5a, 0x5c, 0x5e, 0x58, 0x52, 0x54, 0x5e, 0x5c, 0x62, 0x64, 0x5e, 0x22]⟩) := by decide

/-- V1: a text line, with its operands in another order than R112 lists them. -/
theorem test_assemble :
    assemble "CREATE key=0102030405060708 iv=1011121314151617 ctr=be mode=CTR alg=DES pad=none dir=dec".toList
      = some (.create ⟨.decrypt, .none, .known .des, .ctr, .big, none, k8, some iv8, none⟩) := by decide

/-- V3: a response line. -/
theorem test_response_text : responseText .success [] (some 32) = "-> Success value=32".toList := by decide

/-! ### Witnesses: for each statement with hypotheses, values that meet all of them together -/

/-- Eight bytes. -/
def block8 : List Byte := [0, 1, 2, 3, 4, 5, 6, 7]

/-- A decrypting ECB session with PKCS7 that withholds the ciphertext of `b` (rules R34, R183). -/
def withheld (b : List Byte) : State :=
  { desEcb with
    dir := .decrypt, pad := .pkcs7, pend := fit 31 (encBlock engine .des k8 b), plen := 8, total := 8 }

/-- An encrypting ECB session with PKCS7 and five pending bytes. -/
def fivePending : State :=
  { desEcb with pad := .pkcs7, pend := fit 31 [1, 2, 3, 4, 5], plen := 5, total := 5 }

/-- The RC4 session with a given `TOTAL`. -/
def rc4Total (n : BitVec 64) : State := { rc4State with total := n }

/-- A decrypting CBC session with PKCS7 and nothing pending. -/
def cbcDecrypt : State := { desMode .cbc with dir := .decrypt, pad := .pkcs7 }

theorem inv_desEcb : Inv engine desEcb where
  empty_reset := by decide
  bs_latched := by decide
  live_sound := by decide
  tails := by unfold State.tailsZero; decide
  plen_total := by unfold State.plenTracksTotal; decide
  sstate_zero := by decide
  kstr_zero := by decide
  no_chain := by decide

theorem inv_desMode (m : Mode) (h : m ∈ [Mode.cbc, .cfb, .cfb8, .ctr, .ofb]) : Inv engine (desMode m) where
  empty_reset := by intro h; cases h
  bs_latched := by intro _; rfl
  live_sound := by revert h; cases m <;> decide
  tails := by unfold State.tailsZero; revert h; cases m <;> decide
  plen_total := by unfold State.plenTracksTotal; revert h; cases m <;> decide
  sstate_zero := by intro _; rfl
  kstr_zero := by intro _; rfl
  no_chain := by revert h; cases m <;> decide

theorem inv_aesXts : Inv engine aesXts where
  empty_reset := by decide
  bs_latched := by decide
  live_sound := by decide
  tails := by unfold State.tailsZero; decide
  plen_total := by unfold State.plenTracksTotal; decide
  sstate_zero := by decide
  kstr_zero := by decide
  no_chain := by decide

theorem inv_cbcDecrypt : Inv engine cbcDecrypt where
  empty_reset := by decide
  bs_latched := by decide
  live_sound := by decide
  tails := by unfold State.tailsZero; decide
  plen_total := by unfold State.plenTracksTotal; decide
  sstate_zero := by decide
  kstr_zero := by decide
  no_chain := by decide

theorem inv_fivePending : Inv engine fivePending where
  empty_reset := by decide
  bs_latched := by decide
  live_sound := by decide
  tails := by unfold State.tailsZero; decide
  plen_total := by unfold State.plenTracksTotal; decide
  sstate_zero := by decide
  kstr_zero := by decide
  no_chain := by decide

theorem inv_withheld (b : List Byte) (hb : b.length = 8) : Inv engine (withheld b) where
  empty_reset := by intro h; cases h
  bs_latched := by intro _; rfl
  live_sound := by intro _; rfl
  tails := by
    refine ⟨rfl, rfl, rfl, ?_⟩
    have h := fit_toList_drop (n := 31) (l := encBlock engine .des k8 b)
    rw [encBlock_length, hb] at h
    exact h
  plen_total := by
    intro _ _
    unfold State.plenTracksTotal
    have h : ((withheld b).withholding && decide ((withheld b).blockLen ≤ (withheld b).total.toNat)) = true := rfl
    rw [if_pos h]
    exact (by decide : (8 : Nat) = 8 + 8 % 8)
  sstate_zero := by intro _; rfl
  kstr_zero := by intro _; rfl
  no_chain := by intro _; exact ⟨rfl, rfl⟩

/-- What the session withholds decrypts to what was encrypted. -/
theorem withheld_rule (b : List Byte) (hb : b.length = 8) :
    (blockRule engine (withheld b) ((withheld b).ivt.toList.take (withheld b).bs.toNat)
      ((withheld b).pend.toList.take (withheld b).plen.toNat)).2 = b := by
  have h := fit_toList_take (n := 31) (l := encBlock engine .des k8 b) (by rw [encBlock_length, hb]; decide)
  rw [encBlock_length, hb] at h
  show decBlock engine .des k8 ((fit 31 (encBlock engine .des k8 b)).toList.take 8) = b
  rw [h, decBlock_encBlock]

/-- The longest operands that fit, of each command that has any. -/
theorem witness_DecodeUndoesEncode :
    (Instr.create ⟨.decrypt, .pkcs7, .reserved, .rc4Stream, .big, some 12, zeros 65535, some (zeros 255), some (zeros 255)⟩).WellFormed
      ∧ (Instr.update (zeros (2 ^ 32 - 1))).WellFormed ∧ Instr.final.WellFormed ∧ (Instr.reset (some (zeros 255))).WellFormed
      ∧ (Instr.getOutLen 4294967295 true).WellFormed ∧ Instr.release.WellFormed := by
  simp [Instr.WellFormed, Instr.wf, keyLenFits, optLenFits, inputLenFits]

theorem witness_EncodeUndoesDecode :
    decode ([0x04, 0x20, 0, 0, 0x08, 0, 0, 0] ++ iv8) = .instr (.reset (some iv8))
      ∧ decode ([0x41, 0x81, 0, 0, 0x08, 0, 0, 0, 0x0c, 0, 0, 0] ++ k8)
        = .instr (.create ⟨.encrypt, .none, .known .rc2, .ecb, .little, some 12, k8, none, none⟩) := by decide

/-- A packet of the least length on each side of the equivalence. -/
theorem witness_OpcodeTableIsStepsTwoAndThree :
    8 ≤ ([0x03, 0, 0, 0, 0, 0, 0, 0] : List Byte).length ∧ 8 ≤ ([0x03, 0, 0x02, 0, 0, 0, 0, 0] : List Byte).length := by decide

theorem witness_ResponseReadsBack : (zeros (2 ^ 32 - 1)).length < 2 ^ 32 ∧ 2 ^ 32 - 1 < 2 ^ 32 := by simp

theorem witness_StepRunsDecodedCommand :
    (desEcb.withPacket [0x03, 0, 0, 0, 0, 0, 0, 0]).cmdPort = .packet [0x03, 0, 0, 0, 0, 0, 0, 0] :: []
      ∧ decode [0x03, 0, 0, 0, 0, 0, 0, 0] = .instr .final := by decide

/-- One packet for each step of R106. -/
theorem witness_MalformedPacketChangesNothing :
    (desEcb.withPacket [0x02, 0, 0, 0, 0, 0, 0]).cmdPort = .packet [0x02, 0, 0, 0, 0, 0, 0] :: []
      ∧ (∀ i, decode [0x02, 0, 0, 0, 0, 0, 0] ≠ .instr i)
      ∧ (∀ i, decode [0x07, 0, 0, 0, 0, 0, 0, 0] ≠ .instr i)
      ∧ (∀ i, decode [0x03, 0, 0x02, 0, 0, 0, 0, 0] ≠ .instr i)
      ∧ (∀ i, decode ([0x04, 0, 0, 0, 0x08, 0, 0, 0] ++ iv8) ≠ .instr i)
      ∧ ∀ i, decode [0x02, 0, 0, 0, 0x04, 0, 0, 0, 0xaa, 0xbb, 0xcc] ≠ .instr i :=
  ⟨rfl, fun i => by rw [test_decode_too_short]; simp, fun i => by rw [test_decode_reserved_opcode]; simp,
    fun i => by rw [test_decode_must_be_zero]; simp, fun i => by rw [test_decode_presence]; simp,
    fun i => by rw [test_decode_length]; simp⟩

theorem witness_HardwareResetStep :
    ({ desEcb with cmdPort := [.hardwareReset, .packet []] } : State).cmdPort = .hardwareReset :: [.packet []] := rfl

theorem witness_IdleStep : desEcb.cmdPort = [] := rfl

theorem witness_FetchWordRuns : decodeTableWord 64 6 = some .release ∧ decodeTableWord 32 1 ≠ none := by decide

theorem witness_StepKeepsInvariant :
    Inv engine desEcb ∧ step desEcb = .next desEcb
      ∧ ∃ t, step { cbcDecrypt with cmdPort := [.packet [0x06, 0, 0, 0, 0, 0, 0, 0]] } = .next t := by
  exact ⟨inv_desEcb, rfl, _, rfl⟩

theorem witness_LegalTableKeepsInvariant :
    toy.Legal ∧ Inv toy desEcb ∧ serve (execWith toy) desEcb = .next desEcb :=
  ⟨toy_legal, ⟨inv_desEcb.empty_reset, inv_desEcb.bs_latched, inv_desEcb.live_sound, inv_desEcb.tails, inv_desEcb.plen_total,
    inv_desEcb.sstate_zero, inv_desEcb.kstr_zero, inv_desEcb.no_chain⟩, rfl⟩

theorem witness_StepGoesOn : Inv engine cbcDecrypt := inv_cbcDecrypt

theorem witness_UnsoundRegistersStop :
    ({ desEcb with bs := 0 } : State).sound = false ∧ admitted desEcb.st (.update [1]) ∧ admitted desEcb.st .final
      ∧ admitted desEcb.st (.getOutLen 1 true) := by
  exact ⟨by decide, rfl, rfl, by simp [admitted, desEcb]⟩

/-- An answer with data, one with a value, one with an error. -/
theorem witness_EveryAnswerIsOneResponse :
    (∃ t, exec (.update block8) desEcb = .next t) ∧ (∃ t, exec (.getOutLen 8 true) desEcb = .next t)
      ∧ ∃ t, exec (.reset none) State.reset = .next t := ⟨⟨_, rfl⟩, ⟨_, rfl⟩, ⟨_, rfl⟩⟩

theorem witness_UnadmittedCommandChangesNothing :
    ¬admitted .active (.create ⟨.encrypt, .none, .known .des, .ecb, .little, none, k8, none, none⟩)
      ∧ ¬admitted .finalized (.update []) ∧ ¬admitted .errored .final ∧ ¬admitted .empty (.reset none)
      ∧ ¬admitted .empty (.getOutLen 0 true) ∧ ¬admitted .empty .release := by simp [admitted]

/-- One answered command from each state. -/
theorem witness_SessionTransitions :
    (∃ t, exec .release State.reset = .next t) ∧ (∃ t, exec .final fivePending = .next t)
      ∧ (∃ t, exec (.reset none) { desEcb with st := .finalized } = .next t)
      ∧ ∃ t, exec (.update []) { desEcb with st := .errored } = .next t := ⟨⟨_, rfl⟩, ⟨_, rfl⟩, ⟨_, rfl⟩, ⟨_, rfl⟩⟩

theorem witness_ConfigurationIsImmutable :
    (∃ t, exec (.update block8) desEcb = .next t) ∧ (∃ t, exec .release desEcb = .next t)
      ∧ ∃ t, exec (.create ⟨.encrypt, .none, .known .des, .ecb, .little, none, k8, none, none⟩) State.reset = .next t :=
  ⟨⟨_, rfl⟩, ⟨_, rfl⟩, ⟨_, rfl⟩⟩

theorem witness_ErrorEntryClears :
    ∃ t, exec .final { fivePending with pad := .none } = .next t ∧ t.st = .errored ∧ fivePending.st ≠ .errored :=
  ⟨_, rfl, rfl, by decide⟩

theorem witness_RegistersDetermineAnswers :
    sameRegisters desEcb { desEcb with rspPort := [[1]], cmdPort := [.hardwareReset] }
      ∧ ∃ t, exec (.update block8) desEcb = .next t := ⟨rfl, _, rfl⟩

/-- The hypotheses of `CreateCompletes` but `s.st = .empty`, on one set of operands. -/
def createReady (a : CreateArgs) (alg : Alg) : Prop :=
  a.alg = .known alg ∧ engine.algImpl alg = true ∧ engine.modeImpl a.mode = true ∧ (alg = .rc4 ↔ a.mode = .rc4Stream)
    ∧ (a.mode = .xts → engine.blockSize alg = 16) ∧ (a.pad = .pkcs7 → a.mode = .ecb ∨ a.mode = .cbc)
    ∧ engine.keyLenOK alg a.key.length = true
    ∧ (a.mode ∈ [Mode.cbc, .cfb, .cfb8, .ctr, .ofb] → ∃ v, a.iv = some v ∧ v.length = engine.blockSize alg)
    ∧ (a.mode = .xts → ∃ v, a.tweak = some v ∧ v.length = 16) ∧ (a.rounds ≠ none → engine.varRounds alg = true)

/-- DES with CBC and PKCS7; AES with XTS; RC4. -/
theorem witness_CreateCompletes :
    State.reset.st = .empty
      ∧ createReady ⟨.encrypt, .pkcs7, .known .des, .cbc, .little, none, k8, some iv8, none⟩ .des
      ∧ createReady ⟨.decrypt, .none, .known .aes, .xts, .little, none, k16, none, some tw16⟩ .aes
      ∧ createReady ⟨.encrypt, .none, .known .rc4, .rc4Stream, .little, none, [1], none, none⟩ .rc4 :=
  ⟨rfl,
    ⟨rfl, rfl, rfl, by decide, by decide, by decide, by decide, fun _ => ⟨iv8, rfl, by decide⟩, (by intro h; cases h),
      fun h => absurd rfl h⟩,
    ⟨rfl, rfl, rfl, by decide, by decide, by decide, by decide, fun h => absurd h (by decide), fun _ => ⟨tw16, rfl, by decide⟩,
      fun h => absurd rfl h⟩,
    ⟨rfl, rfl, rfl, by decide, by decide, by decide, by decide, fun h => absurd h (by decide), (by intro h; cases h),
      fun h => absurd rfl h⟩⟩

/-- One CREATE for each check of R133. -/
theorem witness_CreateFirstFailedCheck :
    createVerdict toy ⟨.encrypt, .none, .reserved, .ecb, .little, none, k8, none, none⟩ = some .paramError
      ∧ createVerdict { toy with algImpl := fun _ => false } ⟨.encrypt, .none, .known .des, .ecb, .little, none, k8, none, none⟩
        = some .unimplemented
      ∧ createVerdict toy ⟨.encrypt, .none, .known .rc4, .ecb, .little, none, k8, none, none⟩ = some .paramError
      ∧ createVerdict toy ⟨.encrypt, .none, .known .des, .xts, .little, none, k8, none, some tw16⟩ = some .paramError
      ∧ createVerdict toy ⟨.encrypt, .pkcs7, .known .des, .ctr, .little, none, k8, some iv8, none⟩ = some .paramError
      ∧ createVerdict toy ⟨.encrypt, .none, .known .des, .ecb, .little, none, k16, none, none⟩ = some .paramError
      ∧ createVerdict toy ⟨.encrypt, .none, .known .des, .cbc, .little, none, k8, some (iv8.take 7), none⟩ = some .paramError
      ∧ createVerdict toy ⟨.encrypt, .none, .known .aes, .xts, .little, none, k16, none, none⟩ = some .paramError
      ∧ createVerdict toy ⟨.encrypt, .none, .known .rc2, .ecb, .little, some 12, k8, none, none⟩ = some .paramError := by
  decide

theorem witness_CreateSucceedsOtherwise :
    createVerdict toy ⟨.encrypt, .none, .known .aes, .xts, .little, none, k16, none, some tw16⟩ = none := by decide

theorem witness_ResetCompletes :
    ((desMode .cbc).st ≠ .empty ∧ ∃ v, some iv8 = some v ∧ v.length = (desMode .cbc).bs.toNat)
      ∧ desEcb.st ≠ .empty ∧ ¬desEcb.mode ≠ .ecb := ⟨⟨by decide, iv8, rfl, rfl⟩, by decide, by decide⟩

theorem witness_ResetWithoutIVChangesNothing :
    (desMode .cbc).st ≠ .empty ∧ (desMode .cbc).mode ≠ .ecb ∧ (desMode .cbc).mode ≠ .rc4Stream
      ∧ ¬∃ v, some (iv8.take 7) = some v ∧ v.length = (desMode .cbc).bs.toNat := by
  refine ⟨by decide, by decide, by decide, ?_⟩
  rintro ⟨v, h, hl⟩
  cases h
  exact absurd hl (by decide)

theorem witness_ResetForgetsTheMessage :
    sameConfiguration (desMode .cbc) { desMode .cbc with st := .errored, ivt := fit 16 [], total := 5 }
      ∧ ∃ u answers, issueAll exec [.reset (some iv8), .update block8] (desMode .cbc) = some (u, answers) :=
  ⟨⟨rfl, rfl, rfl, rfl, rfl, rfl, rfl⟩, _, _, rfl⟩

theorem witness_ReleaseCompletes : fivePending.st ≠ .empty := by decide

/-- The bound at its largest value. -/
theorem witness_GetOutLenCompletes :
    rc4State.st ≠ .empty ∧ rc4State.sound = true ∧ outLenTable rc4State (4294967295#32).toNat true = 2 ^ 32 - 1 := by decide

theorem witness_GetOutLenOverflow :
    fivePending.st ≠ .empty ∧ fivePending.sound = true ∧ 2 ^ 32 - 1 < outLenTable fivePending (4294967283#32).toNat true := by
  decide

theorem witness_OutLenOverflowRange :
    exec (.getOutLen 4294967283 true) fivePending = .next (fivePending.respond .overflow [] 0) := rfl

/-- The largest `TOTAL` an UPDATE can leave. -/
theorem witness_UpdateCompletes :
    (rc4Total 18446744073709551614).st = .active ∧ (rc4Total 18446744073709551614).sound = true
      ∧ (rc4Total 18446744073709551614).total.toNat + ([1] : List Byte).length = 2 ^ 64 - 1
      ∧ outLenTable (rc4Total 18446744073709551614) ([1] : List Byte).length false ≤ 2 ^ 32 - 1 := by decide

/-- Each of the two ways to overflow, at its boundary. -/
theorem witness_UpdateOverflowEntersErrored :
    ((rc4Total 18446744073709551615).st = .active ∧ (rc4Total 18446744073709551615).sound = true
        ∧ 2 ^ 64 - 1 < (rc4Total 18446744073709551615).total.toNat + ([1] : List Byte).length)
      ∧ rc4State.st = .active ∧ rc4State.sound = true ∧ 2 ^ 32 - 1 < outLenTable rc4State (zeros (2 ^ 32)).length false := by
  refine ⟨by decide, by decide, by decide, ?_⟩
  rw [zeros_length]
  decide

/-- A session of each kind the clauses name. -/
theorem witness_UpdateFrame :
    (∃ t, exec (.update block8) desEcb = .next t ∧ t.st = .active)
      ∧ (∃ t, exec (.update [1]) (desMode .cfb) = .next t ∧ t.st = .active)
      ∧ (∃ t, exec (.update [1]) (desMode .cfb8) = .next t ∧ t.st = .active)
      ∧ ∃ t, exec (.update [1]) rc4State = .next t ∧ t.st = .active :=
  ⟨⟨_, rfl, rfl⟩, ⟨_, rfl, rfl⟩, ⟨_, rfl, rfl⟩, ⟨_, rfl, rfl⟩⟩

theorem witness_EmptyUpdateChangesNothing : Inv engine fivePending ∧ fivePending.st = .active := ⟨inv_fivePending, rfl⟩

/-- The two pieces together fill the pending block. -/
theorem witness_TwoPiecesActAsOne :
    Inv engine fivePending ∧ fivePending.st = .active
      ∧ fivePending.total.toNat + (([1] : List Byte) ++ [2, 3, 4]).length ≤ 2 ^ 64 - 1
      ∧ outLenTable fivePending (([1] : List Byte) ++ [2, 3, 4]).length false ≤ 2 ^ 32 - 1 :=
  ⟨inv_fivePending, rfl, by decide, by decide⟩

/-- Three pieces, one of them empty; no piece at all. -/
theorem witness_FragmentationInvariance :
    (Inv engine fivePending ∧ fivePending.st = .active
        ∧ fivePending.total.toNat + ([[1], [], [2, 3, 4]] : List (List Byte)).flatten.length ≤ 2 ^ 64 - 1
        ∧ outLenTable fivePending ([[1], [], [2, 3, 4]] : List (List Byte)).flatten.length false ≤ 2 ^ 32 - 1)
      ∧ outLenTable fivePending ([] : List (List Byte)).flatten.length false ≤ 2 ^ 32 - 1 :=
  ⟨⟨inv_fivePending, rfl, by decide, by decide⟩, by decide⟩

/-- The hypotheses of `UpdateTrueBlockModes` on one session and its input. -/
def blocksReady (s : State) (blocks : List (List Byte)) (tail input : List Byte) : Prop :=
  Inv engine s ∧ s.st = .active ∧ s.mode ∈ [Mode.ecb, .cbc, .xts] ∧ (s.pad = .none ∨ s.dir = .encrypt)
    ∧ s.pend.toList.take s.plen.toNat ++ input = blocks.flatten ++ tail ∧ (∀ b ∈ blocks, b.length = s.bs.toNat)
    ∧ tail.length < s.bs.toNat ∧ s.total.toNat + input.length ≤ 2 ^ 64 - 1 ∧ blocks.flatten.length ≤ 2 ^ 32 - 1

/-- ECB with five bytes pending, CBC with a tail one byte short of a block, XTS on whole blocks, and no whole block. -/
theorem witness_UpdateTrueBlockModes :
    blocksReady fivePending [[1, 2, 3, 4, 5, 6, 7, 8]] [9] [6, 7, 8, 9]
      ∧ blocksReady (desMode .cbc) [block8] (iv8.take 7) (block8 ++ iv8.take 7)
      ∧ blocksReady aesXts [k16, tw16] [] (k16 ++ tw16) ∧ blocksReady desEcb [] [1] [1] :=
  ⟨⟨inv_fivePending, rfl, by decide, by decide, by decide, by decide, by decide, by decide, by decide⟩,
    ⟨inv_desMode .cbc (by decide), rfl, by decide, by decide, by decide, by decide, by decide, by decide, by decide⟩,
    ⟨inv_aesXts, rfl, by decide, by decide, by decide, by decide, by decide, by decide, by decide⟩,
    ⟨inv_desEcb, rfl, by decide, by decide, by decide, by decide, by decide, by decide, by decide⟩⟩

/-- The hypotheses of `UpdateWithholdsLastBlock` on one session and its input. -/
def withholdReady (s : State) (blocks : List (List Byte)) (kept input : List Byte) : Prop :=
  Inv engine s ∧ s.st = .active ∧ s.dir = .decrypt ∧ s.pad = .pkcs7
    ∧ s.pend.toList.take s.plen.toNat ++ input = blocks.flatten ++ kept ∧ (∀ b ∈ blocks, b.length = s.bs.toNat)
    ∧ (blocks = [] ∨ s.bs.toNat ≤ kept.length) ∧ kept.length < 2 * s.bs.toNat
    ∧ s.total.toNat + input.length ≤ 2 ^ 64 - 1 ∧ blocks.flatten.length ≤ 2 ^ 32 - 1

/-- One block kept, a block and seven bytes kept, less than a block kept. -/
theorem witness_UpdateWithholdsLastBlock :
    withholdReady cbcDecrypt [block8] iv8 (block8 ++ iv8)
      ∧ withholdReady cbcDecrypt [block8] (iv8 ++ k8.take 7) (block8 ++ (iv8 ++ k8.take 7))
      ∧ withholdReady cbcDecrypt [] [1] [1] :=
  ⟨⟨inv_cbcDecrypt, rfl, rfl, rfl, by decide, by decide, by decide, by decide, by decide, by decide⟩,
    ⟨inv_cbcDecrypt, rfl, rfl, rfl, by decide, by decide, by decide, by decide, by decide, by decide⟩,
    ⟨inv_cbcDecrypt, rfl, rfl, rfl, by decide, by decide, by decide, by decide, by decide, by decide⟩⟩

/-- The hypotheses of `UpdateKeystreamModes` on one session and its units. -/
def unitsReady (s : State) (units : List (List Byte)) : Prop :=
  Inv engine s ∧ s.st = .active ∧ s.mode ∈ [Mode.cfb, .ofb, .ctr] ∧ s.kpos = 0
    ∧ (∀ u ∈ units, 1 ≤ u.length ∧ u.length ≤ s.bs.toNat) ∧ (∀ u ∈ units.dropLast, u.length = s.bs.toNat)
    ∧ s.total.toNat + units.flatten.length ≤ 2 ^ 64 - 1 ∧ units.flatten.length ≤ 2 ^ 32 - 1

/-- CFB with a trailing part one byte short of a block, OFB on whole blocks, CTR with one byte, and no unit. -/
theorem witness_UpdateKeystreamModes :
    unitsReady (desMode .cfb) [block8, iv8.take 7] ∧ unitsReady (desMode .ofb) [block8, iv8]
      ∧ unitsReady (desMode .ctr) [[1]] ∧ unitsReady (desMode .ctr) [] :=
  ⟨⟨inv_desMode .cfb (by decide), rfl, by decide, rfl, by decide, by decide, by decide, by decide⟩,
    ⟨inv_desMode .ofb (by decide), rfl, by decide, rfl, by decide, by decide, by decide, by decide⟩,
    ⟨inv_desMode .ctr (by decide), rfl, by decide, rfl, by decide, by decide, by decide, by decide⟩,
    ⟨inv_desMode .ctr (by decide), rfl, by decide, rfl, by decide, by decide, by decide, by decide⟩⟩

theorem witness_UpdateCfb8 :
    Inv engine (desMode .cfb8) ∧ (desMode .cfb8).st = .active ∧ (desMode .cfb8).total.toNat + block8.length ≤ 2 ^ 64 - 1 :=
  ⟨inv_desMode .cfb8 (by decide), rfl, by decide⟩

theorem witness_UpdateRc4Stream :
    rc4State.st = .active ∧ rc4State.sound = true ∧ rc4State.mode = .rc4Stream
      ∧ rc4State.total.toNat + block8.length ≤ 2 ^ 64 - 1 := by decide

theorem witness_KeystreamPosition :
    ∃ t, (desMode .ofb).sound = true ∧ exec (.update [1, 2, 3]) (desMode .ofb) = .next t ∧ t.st = .active :=
  ⟨_, by decide, rfl, rfl⟩

theorem witness_CtrOrdersAgreeOnFirstBlock :
    ∃ t u out, (desMode .ctr).sound = true ∧ (desMode .ctr).kpos = 0 ∧ block8.length ≤ (desMode .ctr).bs.toNat
      ∧ exec (.update block8) { desMode .ctr with ctrBE := .little } = .next t
      ∧ t.rspPort = (desMode .ctr).rspPort ++ [responsePacket .success out 0]
      ∧ exec (.update block8) { desMode .ctr with ctrBE := .big } = .next u :=
  ⟨_, _, _, by decide, rfl, by decide, rfl, rfl, rfl⟩

theorem witness_UpdateEmitsThePrediction :
    fivePending.st = .active ∧ fivePending.sound = true ∧ block8.length = (8#32).toNat
      ∧ fivePending.total.toNat + block8.length ≤ 2 ^ 64 - 1
      ∧ outLenTable fivePending (8#32).toNat false ≤ 2 ^ 32 - 1 := by decide

theorem witness_FinalStreamCompletes :
    (desMode .ctr).st = .active ∧ (desMode .ctr).sound = true ∧ (desMode .ctr).mode ∈ [Mode.cfb, .cfb8, .ctr, .ofb, .rc4Stream] := by
  decide

/-- Nothing pending; one byte pending. -/
theorem witness_FinalWithoutPadding :
    (aesXts.st = .active ∧ aesXts.sound = true ∧ aesXts.mode ∈ [Mode.ecb, .cbc, .xts] ∧ aesXts.pad = .none ∧ aesXts.plen = 0)
      ∧ let s : State := { desEcb with pend := fit 31 [1], plen := 1, total := 1 }
        s.st = .active ∧ s.sound = true ∧ s.mode ∈ [Mode.ecb, .cbc, .xts] ∧ s.pad = .none ∧ s.plen ≠ 0 := by decide

theorem witness_FinalEncryptPads :
    Inv engine fivePending ∧ fivePending.st = .active ∧ fivePending.pad = .pkcs7 ∧ fivePending.dir = .encrypt :=
  ⟨inv_fivePending, rfl, rfl, rfl⟩

/-- The shortest and the longest fill. -/
theorem witness_FinalDecryptUnpads :
    (∃ payload, Inv engine (withheld (iv8.take 7 ++ [1])) ∧ (withheld (iv8.take 7 ++ [1])).plen = (withheld (iv8.take 7 ++ [1])).bs
        ∧ (blockRule engine (withheld (iv8.take 7 ++ [1]))
            ((withheld (iv8.take 7 ++ [1])).ivt.toList.take (withheld (iv8.take 7 ++ [1])).bs.toNat)
            ((withheld (iv8.take 7 ++ [1])).pend.toList.take (withheld (iv8.take 7 ++ [1])).plen.toNat)).2
          = payload ++ List.replicate 1 (BitVec.ofNat 8 1))
      ∧ Inv engine (withheld [8, 8, 8, 8, 8, 8, 8, 8])
      ∧ (blockRule engine (withheld [8, 8, 8, 8, 8, 8, 8, 8])
            ((withheld [8, 8, 8, 8, 8, 8, 8, 8]).ivt.toList.take (withheld [8, 8, 8, 8, 8, 8, 8, 8]).bs.toNat)
            ((withheld [8, 8, 8, 8, 8, 8, 8, 8]).pend.toList.take (withheld [8, 8, 8, 8, 8, 8, 8, 8]).plen.toNat)).2
          = [] ++ List.replicate 8 (BitVec.ofNat 8 8) :=
  ⟨⟨iv8.take 7, inv_withheld _ rfl, rfl, withheld_rule _ rfl⟩, inv_withheld _ rfl, withheld_rule _ rfl⟩

/-- A withheld block that decrypts to zeros: its last byte is 0, which is no fill. -/
theorem witness_FinalBadPaddingErrs :
    (withheld (zeros 8)).st = .active ∧ (withheld (zeros 8)).sound = true ∧ (withheld (zeros 8)).plen = (withheld (zeros 8)).bs
      ∧ ¬∃ (payload : List Byte) (n : Nat), 1 ≤ n ∧ n ≤ (withheld (zeros 8)).bs.toNat ∧
        (blockRule engine (withheld (zeros 8)) ((withheld (zeros 8)).ivt.toList.take (withheld (zeros 8)).bs.toNat)
          ((withheld (zeros 8)).pend.toList.take (withheld (zeros 8)).plen.toNat)).2
          = payload ++ List.replicate n (BitVec.ofNat 8 n) := by
  refine ⟨rfl, rfl, rfl, ?_⟩
  rintro ⟨payload, n, h1, h8, h⟩
  rw [withheld_rule _ rfl] at h
  have hn : n ≤ 8 := h8
  have hmem : BitVec.ofNat 8 n ∈ zeros 8 := by
    rw [h]
    exact List.mem_append_right _ (List.mem_replicate.mpr ⟨by omega, rfl⟩)
  have hz := List.eq_of_mem_replicate hmem
  have ht := congrArg BitVec.toNat hz
  rw [BitVec.toNat_ofNat, show (0 : Byte).toNat = 0 from rfl] at ht
  omega

/-- No ciphertext at all, and a ragged one. -/
theorem witness_FinalRaggedCiphertextErrs :
    (cbcDecrypt.st = .active ∧ cbcDecrypt.sound = true ∧ cbcDecrypt.plen ≠ cbcDecrypt.bs)
      ∧ ({ cbcDecrypt with plen := 15, total := 15 } : State).sound = true ∧ (15#5 : BitVec 5) ≠ cbcDecrypt.bs := by decide

theorem witness_UpdateAndFinalStayWithinBound :
    ∃ t u out1 out2, Inv engine fivePending ∧ exec (.update [6]) fivePending = .next t ∧ t.st = .active
      ∧ t.rspPort = fivePending.rspPort ++ [responsePacket .success out1 0] ∧ exec .final t = .next u ∧ u.st = .finalized
      ∧ u.rspPort = t.rspPort ++ [responsePacket .success out2 0] :=
  ⟨_, _, _, _, inv_fivePending, rfl, rfl, rfl, rfl, rfl, rfl⟩

/-- The shortest and the longest fill of an 8-byte block, and the largest block size. -/
theorem witness_UnpadAcceptsExactlyPadded :
    pkcs7Unpad (iv8.take 7 ++ [1]) 8 = some (iv8.take 7) ∧ pkcs7Unpad (List.replicate 8 8) 8 = some []
      ∧ (zeros 255).length = 255 := ⟨by decide, by decide, by simp⟩

theorem witness_UnpadInvertsPad : 255 ≤ 255 ∧ ([] : List Byte).length < 255 ∧ (iv8.take 7).length < 8 := by decide

theorem witness_MulAlphaArithmetic : k16.length = 16 ∧ (0x80 :: zeros 14 ++ [0x80]).length = 16 := by decide

theorem witness_DecryptUnitUndoesEncryptUnit :
    aesXts.bs.toNat ≤ 16 ∧ k16.length = aesXts.bs.toNat ∧ block8.length = (desMode .cbc).bs.toNat := by decide

theorem witness_MessageRoundTrip :
    toy.Legal ∧ State.reset.st = .empty
      ∧ ∃ t, encryptMessage (execWith toy) ⟨.encrypt, .pkcs7, .known .des, .cbc, .little, none, k8, some iv8, none⟩
        [0x41, 0x42, 0x43, 0x44, 0x45, 0x46, 0x47, 0x48, 0x49] State.reset
          = some (t, ⟨0, [0x52, 0x54, 0x56, 0x58, 0x5a, 0x5c, 0x5e, 0x58, 0x52, 0x54, 0x5e, 0x5c, 0x62, 0x64, 0x5e, 0x22]⟩) :=
  ⟨toy_legal, rfl, _, rfl⟩

end Sys2Proof.Tests
end

section
/-!
The admission check of the session commands (spec file 40_session_commands.md, R131).
-/

namespace Sys2Proof.Proofs

open Sys2Proof.Machine Sys2Proof.Claims

/-- R131, under any configuration: each command has one row of `Answered` for the states `ST` does not admit it in. -/
theorem answered_paramError_of_not_admitted (c : Config) {i : Instr} {s : State} (h : ¬admitted s.st i) :
    Answered c s i (s.respond .paramError [] 0) := by
  cases i with
  | create a => exact .createUnadmitted a h
  | update input => exact .updateUnadmitted input h
  | final => exact .finalUnadmitted h
  | reset iv => exact .resetUnadmitted iv (not_ne_iff.mp h)
  | getOutLen n fin => exact .getOutLenUnadmitted n fin (not_ne_iff.mp h)
  | release => exact .releaseUnadmitted (not_ne_iff.mp h)

/-- Settles O18: the engine's `exec` answers as its row of `Answered` says. -/
theorem unadmittedCommandChangesNothing : Obligations.UnadmittedCommandChangesNothing := by
  intro i s h
  rw [exec_eq_execWith]
  exact (answered_paramError_of_not_admitted engine h).execWith

end Sys2Proof.Proofs
end

section
/-!
FINAL without padding (spec file 41_data_commands.md, R181, R184, R185): what `flush` answers in a stream-equivalent mode
and in an unpadded true block mode, and from it the next state.
-/

namespace Sys2Proof.Proofs

open Sys2Proof.Machine Sys2Proof.Claims

/-- The modes R181 names are the stream-equivalent ones of R45. -/
theorem modeClass_eq_stream_iff (m : Mode) :
    (∃ k, modeClass m = .stream k) ↔ m ∈ [Mode.cfb, .cfb8, .ctr, .ofb, .rc4Stream] := by
  cases m <;> simp [modeClass]

/-- The modes R184 speaks of are the true block ones of R45. -/
theorem modeClass_eq_trueBlock_iff (m : Mode) :
    (∃ k, modeClass m = .trueBlock k) ↔ m ∈ [Mode.ecb, .cbc, .xts] := by
  cases m <;> simp [modeClass]

/-- R181: in a stream-equivalent mode the body of FINAL has nothing to do. -/
theorem flush_of_stream (c : Config) {s : State} {m : StreamMode} (h : modeClass s.mode = .stream m) :
    flush c s = .output s [] := by
  simp only [flush, h]

/-- R184: in a true block mode without padding the body of FINAL is `FinalNoPad()`, in either direction. -/
theorem flush_of_unpadded (c : Config) {s : State} {m : BlockMode} (h : modeClass s.mode = .trueBlock m)
    (hp : s.pad = .none) : flush c s = if s.plen = 0 then .output s [] else .error .paramError := by
  have hz : s.plen.toNat = 0 ↔ s.plen = 0 := BitVec.toNat_eq_nat.trans (by simp)
  simp only [flush, h, hp, finalNoPad, ne_eq, hz, ite_not]

/-- The registers of `finish` are those the statements write out (R185). -/
theorem finish_eq_finishedFrom (s : State) : s.finish = finishedFrom s := rfl

/-- The registers of the error entry are those the statements write out (R264). -/
theorem errorEntry_eq_erroredFrom (s : State) : s.errorEntry = erroredFrom s := rfl

/-- Settles O47: the body of FINAL hands the state on as it is, so only FINAL's tail changes it. -/
theorem finalStreamCompletes : Obligations.FinalStreamCompletes := by
  intro s hactive hsound hmode
  obtain ⟨m, hclass⟩ := (modeClass_eq_stream_iff s.mode).mpr hmode
  rw [exec_eq_execWith, ← finish_eq_finishedFrom]
  exact (Answered.finalDone s [] hactive hsound (flush_of_stream engine hclass)).execWith

/-- Settles O48: `PLEN` alone decides between FINAL's tail and the error entry. -/
theorem finalWithoutPadding : Obligations.FinalWithoutPadding := by
  intro s hactive hsound hmode hpad
  obtain ⟨m, hclass⟩ := (modeClass_eq_trueBlock_iff s.mode).mpr hmode
  have hflush := flush_of_unpadded engine hclass hpad
  rw [exec_eq_execWith, ← finish_eq_finishedFrom, ← errorEntry_eq_erroredFrom]
  by_cases hplen : s.plen = 0
  · rw [if_pos hplen] at hflush ⊢
    exact (Answered.finalDone s [] hactive hsound hflush).execWith
  · rw [if_neg hplen] at hflush ⊢
    exact (Answered.finalFails .paramError hactive hsound hflush).execWith

end Sys2Proof.Proofs
end

section
/-!
The counter increment (spec file 42_mode_driver.md, R210): the byte-wise increment adds one modulo `256^length`, so
`CtrInc`, which computes on integers, is that byte-wise form.
-/

namespace Sys2Proof.Proofs

open Sys2Proof.Machine Sys2Proof.Claims

/-- R210's modulus, in bits and in bytes. -/
theorem two_pow_eight_mul (n : Nat) : 2 ^ (8 * n) = 256 ^ n := Nat.pow_mul 2 8 n

@[simp] theorem intOf_little (v : List Byte) : intOf .little v = leNat v := rfl

theorem leNat_eq_foldr (l : List Byte) : leNat l = l.foldr (fun b acc => acc * 256 + b.toNat) 0 := by
  induction l with
  | nil => rfl
  | cons b t ih => rw [leNat, List.foldr_cons, ← ih, Nat.mul_comm, Nat.add_comm]

/-- The big-endian integer is the little-endian one of the reversed sequence: both are one fold. -/
@[simp] theorem intOf_big (v : List Byte) : intOf .big v = leNat v.reverse := by
  rw [leNat_eq_foldr, List.foldr_reverse]
  rfl

theorem incBytes_cons_wrap (rest : List Byte) : incBytes (255 :: rest) = 0 :: incBytes rest := rfl

theorem incBytes_cons_of_ne {b : Byte} (h : b ≠ 255) (rest : List Byte) : incBytes (b :: rest) = (b + 1) :: rest :=
  if_neg h

@[simp] theorem incBytes_length (v : List Byte) : (incBytes v).length = v.length := by
  induction v with
  | nil => rfl
  | cons b rest ih =>
    by_cases hb : b = 255
    · subst hb
      simp only [incBytes_cons_wrap, List.length_cons, ih]
    · simp only [incBytes_cons_of_ne hb, List.length_cons]

/-- A byte that wraps carries into the rest; one that does not wrap takes the one and leaves the number in range. -/
theorem leNat_incBytes (v : List Byte) : leNat (incBytes v) = (leNat v + 1) % 256 ^ v.length := by
  induction v with
  | nil => rfl
  | cons b rest ih =>
    by_cases hb : b = 255
    · subst hb
      calc leNat (incBytes (255 :: rest))
          = 256 * ((leNat rest + 1) % 256 ^ rest.length) := by
            rw [incBytes_cons_wrap, leNat, ih]
            exact Nat.zero_add _
        _ = 256 * (leNat rest + 1) % (256 * 256 ^ rest.length) := (Nat.mul_mod_mul_left ..).symm
        _ = (leNat (255 :: rest) + 1) % 256 ^ (255 :: rest).length := by
            have hcarry : leNat (255 :: rest) + 1 = 256 * (leNat rest + 1) := by
              simp only [leNat, BitVec.reduceToNat]
              omega
            rw [hcarry, List.length_cons, Nat.pow_succ']
    · have hnext : leNat ((b + 1) :: rest) = leNat (b :: rest) + 1 := by
        simp only [leNat]
        bv_omega
      have hrange : leNat ((b + 1) :: rest) < 256 ^ (b :: rest).length := leNat_lt ((b + 1) :: rest)
      rw [incBytes_cons_of_ne hb, ← hnext, Nat.mod_eq_of_lt hrange]

/-- The big-endian increment is the little-endian one of the reversed sequence. -/
theorem ctrInc_big (v : List Byte) : ctrInc .big v = (ctrInc .little v.reverse).reverse := by
  simp only [ctrInc, List.length_reverse]

/-- A sequence of known length is its number, and the two forms stand for the same number. -/
theorem ctrInc_little (v : List Byte) : ctrInc .little v = incBytes v := by
  have hnum : (leNat v + 1) % 2 ^ (8 * v.length) = leNat (incBytes v) := by
    rw [leNat_incBytes, two_pow_eight_mul]
  calc ctrInc .little v
      = leBytes (incBytes v).length (leNat (incBytes v)) := by rw [ctrInc, hnum, incBytes_length]
    _ = incBytes v := leBytes_leNat _

theorem ctrInc_eq_incBytewise (order : Endian) (v : List Byte) : ctrInc order v = incBytewise order v := by
  cases order with
  | little => exact ctrInc_little v
  | big => rw [ctrInc_big, ctrInc_little, incBytewise]

theorem intOf_incBytewise (order : Endian) (v : List Byte) :
    intOf order (incBytewise order v) = (intOf order v + 1) % 256 ^ v.length := by
  cases order with
  | little => exact leNat_incBytes v
  | big => rw [incBytewise, intOf_big, intOf_big, List.reverse_reverse, leNat_incBytes, List.length_reverse]

/-- Settles O56: `CtrInc` is the byte-wise increment, whose integer is one more modulo the block width. -/
theorem ctrIncrement : Obligations.CtrIncrement := by
  intro order v
  have hbytes := ctrInc_eq_incBytewise order v
  refine ⟨ctrInc_length order v, ?_, hbytes⟩
  rw [hbytes, intOf_incBytewise, two_pow_eight_mul]

end Sys2Proof.Proofs
end

section
/-!
The entry to `ERRORED` (spec file 60_exceptions.md, R262 to R264): of the rows of `Answered`, an overflowing UPDATE and
a failing FINAL are the only two that move `ST` to `ERRORED`.
-/

namespace Sys2Proof.Proofs

open Sys2Proof.Machine Sys2Proof.Claims

/-- The path of UPDATE does not move the session (R44). -/
theorem push_st (c : Config) (s : State) (input : List Byte) : (push c s input).1.st = s.st := by
  obtain ⟨ivt, kstr, kpos, sstate, pend, plen, hpush⟩ := push_state c s input
  rw [hpush]

theorem flush_error_ne_success {c : Config} {s : State} {status : Status} (h : flush c s = .error status) :
    status ≠ .success := by
  rcases flush_error h with rfl | rfl <;> decide

/-- R263, R264, under any configuration: class A leaves `ST` as it was (R262) and a success leads to a state other than
`ERRORED`, so what entered `ERRORED` went through the error entry. -/
theorem answered_errorEntry_of_errored {c : Config} {i : Instr} {s t : State} (h : Answered c s i t)
    (hentered : t.st = .errored) (hbefore : s.st ≠ .errored) :
    s.st = .active ∧ ((∃ input, i = .update input) ∨ i = .final)
      ∧ ∃ status, status ≠ .success ∧ t = s.errorEntry.respond status [] 0 := by
  cases h with
  | updateOverflows input hactive => exact ⟨hactive, .inl ⟨input, rfl⟩, .overflow, by decide, rfl⟩
  | finalFails status hactive _ hflush => exact ⟨hactive, .inr rfl, status, flush_error_ne_success hflush, rfl⟩
  | updateDone input =>
    rw [State.respond_st, State.addTotal_st, push_st] at hentered
    exact absurd hentered hbefore
  | createDone | resetDone | finalDone | releaseDone => cases hentered
  | createUnadmitted | createReserved | createFails | updateUnadmitted | finalUnadmitted | resetUnadmitted | resetFails
  | getOutLenUnadmitted | getOutLenOverflows | getOutLenDone | releaseUnadmitted => exact absurd hentered hbefore

/-- Settles O21: the engine's `exec` is one configuration's commands, and `errorEntry` writes what R264 lists. -/
theorem errorEntryClears : Obligations.ErrorEntryClears := by
  intro i s t hexec hentered hbefore
  rw [exec_eq_execWith] at hexec
  rw [← errorEntry_eq_erroredFrom]
  exact answered_errorEntry_of_errored (execWith_answered hexec) hentered hbefore

end Sys2Proof.Proofs
end

section
/-!
Packets (spec file 30_encoding.md, R90 to R107, R110): a packet of at least 8 bytes is its two descriptor words and its
payload, and each format decodes exactly the packets the encoder makes.
-/

namespace Sys2Proof.Proofs

open Sys2Proof.Machine Sys2Proof.Claims

/-! ### Reading at an offset -/

@[simp] theorem cmdRead_zero (l : List Byte) (n : Nat) : cmdRead l 0 n = l.take n := rfl

theorem cmdRead_append_length {a : List Byte} {k : Nat} (h : a.length = k) (b : List Byte) (off n : Nat) :
    cmdRead (a ++ b) (k + off) n = cmdRead b off n := by
  subst h
  rw [cmdRead, cmdRead, List.drop_append, List.drop_eq_nil_of_le (by omega), Nat.add_sub_cancel_left, List.nil_append]

/-- The little-endian word at the head of a sequence reads back. -/
theorem leNat_cmdRead_u32le {v : Nat} (h : v < 2 ^ 32) (rest : List Byte) :
    leNat (cmdRead (u32le v ++ rest) 0 4) = v := by
  rw [cmdRead_zero, List.take_left' (u32le_length v), leNat_u32le h]

/-- Four bytes are the word they stand for. -/
theorem u32le_leNat {l : List Byte} (h : l.length = 4) : u32le (leNat l) = l := by
  have hl := leBytes_leNat l
  rwa [h] at hl

theorem leNat_lt_two_pow_32 {l : List Byte} (h : l.length = 4) : leNat l < 2 ^ 32 := by
  have hl := leNat_lt l
  rw [h] at hl
  omega

/-- R110: the offsets 0, 4, 8 and 12 of a response are its four fields. -/
theorem readResponse_responsePacket (status : Status) {data : List Byte} {value : Nat} (hdata : data.length < 2 ^ 32)
    (hvalue : value < 2 ^ 32) :
    readResponse (responsePacket status data value) = ⟨status.code, data.length, value, data⟩ := by
  have hcode : status.code < 2 ^ 32 := by cases status <;> decide
  have hstatus : leNat (cmdRead (responsePacket status data value) 0 4) = status.code := by
    simp only [responsePacket, List.append_assoc]
    exact leNat_cmdRead_u32le hcode _
  have hdlen : leNat (cmdRead (responsePacket status data value) (4 + 0) 4) = data.length := by
    simp only [responsePacket, List.append_assoc]
    rw [cmdRead_append_length (u32le_length _), leNat_cmdRead_u32le hdata]
  have hval : leNat (cmdRead (responsePacket status data value) (4 + (4 + 0)) 4) = value := by
    simp only [responsePacket, List.append_assoc]
    rw [cmdRead_append_length (u32le_length _), cmdRead_append_length (u32le_length _), leNat_cmdRead_u32le hvalue]
  have htail : (responsePacket status data value).drop 12 = data := List.drop_left' (by simp)
  simp only [readResponse, Response.mk.injEq]
  exact ⟨hstatus, hdlen, hval, htail⟩

/-- Settles O5: each field is read back from its own offset. -/
theorem responseReadsBack : Obligations.ResponseReadsBack :=
  fun status _ _ hdata hvalue => readResponse_responsePacket status hdata hvalue

/-! ### A packet as two words and a payload -/

/-- The layout of R90: the descriptor words, then the payload. -/
def packetOf (w0 w1 : Nat) (payload : List Byte) : List Byte := u32le w0 ++ u32le w1 ++ payload

theorem encode_eq_packetOf (i : Instr) : encode i = packetOf i.w0 i.w1 i.payload := rfl

@[simp] theorem packetOf_length (w0 w1 : Nat) (p : List Byte) : (packetOf w0 w1 p).length = 8 + p.length := by
  simp [packetOf, ← Nat.add_assoc]

theorem cmdRead_packetOf (w0 w1 : Nat) (p : List Byte) (off n : Nat) :
    cmdRead (packetOf w0 w1 p) (8 + off) n = (p.drop off).take n := by
  rw [packetOf, cmdRead_append_length (by simp), cmdRead]

/-- Every packet long enough to have a descriptor has this layout. -/
theorem exists_eq_packetOf {pkt : List Byte} (h : 8 ≤ pkt.length) :
    ∃ w0 w1 p, w0 < 2 ^ 32 ∧ w1 < 2 ^ 32 ∧ pkt = packetOf w0 w1 p := by
  have h0 : (pkt.take 4).length = 4 := by simp; omega
  have h1 : ((pkt.drop 4).take 4).length = 4 := by simp; omega
  refine ⟨leNat (pkt.take 4), leNat ((pkt.drop 4).take 4), pkt.drop 8, leNat_lt_two_pow_32 h0, leNat_lt_two_pow_32 h1, ?_⟩
  have hdrop : pkt.drop 8 = (pkt.drop 4).drop 4 := by rw [List.drop_drop]
  rw [packetOf, u32le_leNat h0, u32le_leNat h1, hdrop, List.append_assoc, List.take_append_drop, List.take_append_drop]

/-- R106 on a packet of this layout: the opcode chooses the format. -/
theorem decode_packetOf {w0 w1 : Nat} (h0 : w0 < 2 ^ 32) (h1 : w1 < 2 ^ 32) (p : List Byte) :
    decode (packetOf w0 w1 p) =
      if slice w0 3 0 = 1 then decodeCreate w0 w1 (packetOf w0 w1 p)
      else if slice w0 3 0 = 2 then decodeUpdate w0 w1 (packetOf w0 w1 p)
      else if slice w0 3 0 = 3 then decodeFinal w0 w1 (packetOf w0 w1 p)
      else if slice w0 3 0 = 4 then decodeReset w0 w1 (packetOf w0 w1 p)
      else if slice w0 3 0 = 5 then decodeGetOutLen w0 w1 (packetOf w0 w1 p)
      else if slice w0 3 0 = 6 then decodeRelease w0 w1 (packetOf w0 w1 p)
      else .reservedOpcode := by
  have hw0 : leNat (cmdRead (packetOf w0 w1 p) 0 4) = w0 := by
    rw [packetOf, List.append_assoc]
    exact leNat_cmdRead_u32le h0 _
  have hw1 : leNat (cmdRead (packetOf w0 w1 p) 4 4) = w1 := by
    rw [packetOf, List.append_assoc]
    exact (congrArg leNat (cmdRead_append_length (u32le_length w0) _ 0 4)).trans (leNat_cmdRead_u32le h1 _)
  have hlen : ¬(packetOf w0 w1 p).length < 8 := by simp
  simp only [decode, if_neg hlen, hw0, hw1]
  split <;> simp_all

/-! ### Field codes -/

theorem Dir.ofCode_eq_iff {n : Nat} (h : n < 2) (d : Dir) : Dir.ofCode n = d ↔ n = d.code := by
  interval_cases n <;> cases d <;> decide

theorem Padding.ofCode_eq_iff {n : Nat} (h : n < 2) (p : Padding) : Padding.ofCode n = p ↔ n = p.code := by
  interval_cases n <;> cases p <;> decide

theorem Endian.ofCode_eq_iff {n : Nat} (h : n < 2) (e : Endian) : Endian.ofCode n = e ↔ n = e.code := by
  interval_cases n <;> cases e <;> decide

theorem Mode.ofCode_eq_iff {n : Nat} (h : n < 8) (m : Mode) : Mode.ofCode n = m ↔ n = m.code := by
  interval_cases n <;> cases m <;> decide

theorem AlgField.ofCode_eq_iff {n : Nat} (h : n < 8) (a : AlgField) : AlgField.ofCode n = a ↔ n = a.code := by
  rcases a with a | _
  · interval_cases n <;> cases a <;> decide
  · interval_cases n <;> decide

theorem Dir.code_lt (d : Dir) : d.code < 2 := by cases d <;> decide

theorem Padding.code_lt (p : Padding) : p.code < 2 := by cases p <;> decide

theorem Endian.code_lt (e : Endian) : e.code < 2 := by cases e <;> decide

theorem Mode.code_lt (m : Mode) : m.code < 8 := by cases m <;> decide

theorem AlgField.code_lt (a : AlgField) : a.code < 8 := by
  rcases a with a | _
  · cases a <;> decide
  · decide

theorem slice_lt (w hi lo : Nat) : slice w hi lo < 2 ^ (hi + 1 - lo) := Nat.mod_lt _ (Nat.two_pow_pos _)

theorem presenceBit_lt {α : Type} (o : Option α) : presenceBit o < 2 := by cases o <;> simp [presenceBit]

/-- R99 and step 4 of R106: a presence bit and bytes that agree are those of exactly one optional operand. -/
theorem presentIf_eq_iff {bit : Nat} {v : List Byte} (hbit : bit < 2) (h : presenceAgrees bit v.length = true)
    (o : Option (List Byte)) : presentIf bit v = o ↔ bit = presenceBit o ∧ v = optBytes o := by
  interval_cases bit
  · have hv : v = [] := by simpa [presenceAgrees] using h
    cases o <;> simp [presentIf, presenceBit, optBytes, hv]
  · cases o <;> simp [presentIf, presenceBit, optBytes]

theorem presenceAgrees_operand (o : Option (List Byte)) : presenceAgrees (presenceBit o) (optBytes o).length = true := by
  cases o <;> rfl

/-- R100: the payload word `ROUNDS` is there when `RDP = 1`. -/
theorem rounds_eq_iff {bit : Nat} {v : List Byte} (hbit : bit < 2) (h : v.length = 4 * bit) (o : Option (BitVec 32)) :
    (if bit = 1 then some (BitVec.ofNat 32 (leNat v)) else none) = o ↔ bit = presenceBit o ∧ v = roundsBytes o := by
  interval_cases bit
  · have hv : v = [] := List.eq_nil_of_length_eq_zero (by omega)
    cases o <;> simp [presenceBit, roundsBytes, hv]
  · cases o with
    | none => simp [presenceBit]
    | some n =>
      have hlt := leNat_lt_two_pow_32 h
      simp only [presenceBit, roundsBytes, Option.isSome_some, if_true, true_and, Option.some.injEq]
      constructor
      · rintro rfl
        rw [BitVec.toNat_ofNat, Nat.mod_eq_of_lt hlt, u32le_leNat h]
      · rintro rfl
        rw [leNat_u32le n.isLt, BitVec.ofNat_toNat, BitVec.setWidth_eq]

/-! ### The six formats -/

/-- One refusing step of R106: a packet that decodes has passed it. -/
theorem refuse_eq_instr_iff {P : Prop} [Decidable P] {refused rest : Decoded} {i : Instr} (h : refused ≠ .instr i) :
    (if P then refused else rest) = .instr i ↔ ¬P ∧ rest = .instr i := by
  split <;> simp_all

theorem eight_add_length_eq_iff (p : List Byte) : 8 + p.length = 8 ↔ p = [] := by
  rw [← List.length_eq_zero_iff]
  omega

/-- Format U (R101). -/
theorem decodeUpdate_eq_instr_iff (w0 w1 : Nat) (p : List Byte) (i : Instr) :
    decodeUpdate w0 w1 (packetOf w0 w1 p) = .instr i ↔ slice w0 31 4 = 0 ∧ w1 = p.length ∧ i = .update p := by
  have hread : p.length = w1 → cmdRead (packetOf w0 w1 p) 8 w1 = p := by
    rintro rfl
    exact (cmdRead_packetOf w0 _ p 0 _).trans (by simp)
  rw [decodeUpdate, refuse_eq_instr_iff (by simp), refuse_eq_instr_iff (by simp), not_not, not_not, packetOf_length,
    Nat.add_left_cancel_iff, Decoded.instr.injEq]
  constructor
  · rintro ⟨hz, hl, rfl⟩
    exact ⟨hz, hl.symm, by rw [hread hl]⟩
  · rintro ⟨hz, hl, rfl⟩
    exact ⟨hz, hl.symm, by rw [hread hl.symm]⟩

/-- Format F (R102). -/
theorem decodeFinal_eq_instr_iff (w0 w1 : Nat) (p : List Byte) (i : Instr) :
    decodeFinal w0 w1 (packetOf w0 w1 p) = .instr i ↔ slice w0 31 4 = 0 ∧ w1 = 0 ∧ p = [] ∧ i = .final := by
  rw [decodeFinal, refuse_eq_instr_iff (by simp), refuse_eq_instr_iff (by simp), packetOf_length, not_or, not_not, not_not,
    not_not, eight_add_length_eq_iff, Decoded.instr.injEq, and_assoc, eq_comm (a := Instr.final)]

/-- Format X (R105). -/
theorem decodeRelease_eq_instr_iff (w0 w1 : Nat) (p : List Byte) (i : Instr) :
    decodeRelease w0 w1 (packetOf w0 w1 p) = .instr i ↔ slice w0 31 4 = 0 ∧ w1 = 0 ∧ p = [] ∧ i = .release := by
  rw [decodeRelease, refuse_eq_instr_iff (by simp), refuse_eq_instr_iff (by simp), packetOf_length, not_or, not_not, not_not,
    not_not, eight_add_length_eq_iff, Decoded.instr.injEq, and_assoc, eq_comm (a := Instr.release)]

/-- Format Q (R104). -/
theorem decodeGetOutLen_eq_instr_iff (w0 w1 : Nat) (p : List Byte) (i : Instr) :
    decodeGetOutLen w0 w1 (packetOf w0 w1 p) = .instr i ↔
      slice w0 31 17 = 0 ∧ slice w0 15 4 = 0 ∧ p = []
        ∧ i = .getOutLen (BitVec.ofNat 32 w1) (slice w0 16 16 == 1) := by
  rw [decodeGetOutLen, refuse_eq_instr_iff (by simp), refuse_eq_instr_iff (by simp), packetOf_length, not_or, not_not,
    not_not, not_not, eight_add_length_eq_iff, Decoded.instr.injEq, and_assoc, eq_comm (b := i)]

/-- Format R (R103). -/
theorem decodeReset_eq_instr_iff (w0 w1 : Nat) (p : List Byte) (i : Instr) :
    decodeReset w0 w1 (packetOf w0 w1 p) = .instr i ↔
      (slice w0 31 14 = 0 ∧ slice w0 12 4 = 0 ∧ slice w1 31 8 = 0)
        ∧ ∃ iv, i = .reset iv ∧ slice w0 13 13 = presenceBit iv ∧ slice w1 7 0 = (optBytes iv).length ∧ p = optBytes iv := by
  have hbit : slice w0 13 13 < 2 := slice_lt w0 13 13
  have hread : cmdRead (packetOf w0 w1 p) 8 p.length = p := (cmdRead_packetOf w0 w1 p 0 _).trans (by simp)
  rw [decodeReset, refuse_eq_instr_iff (by simp), refuse_eq_instr_iff (by simp), refuse_eq_instr_iff (by simp), not_or, not_or,
    not_not, not_not, not_not, not_not, packetOf_length, Nat.add_left_cancel_iff, Bool.not_eq_true', Bool.not_eq_false,
    Decoded.instr.injEq]
  refine and_congr_right fun _ => ?_
  constructor
  · rintro ⟨hagree, hlen, rfl⟩
    rw [← hlen] at hagree ⊢
    obtain ⟨hb, hv⟩ := (presentIf_eq_iff hbit hagree _).mp rfl
    rw [hread]
    exact ⟨_, rfl, hb, congrArg List.length hv, hv⟩
  · rintro ⟨iv, rfl, hb, hlen, rfl⟩
    have hagree : presenceAgrees (slice w0 13 13) (optBytes iv).length = true := by rw [hb, presenceAgrees_operand]
    rw [hlen, hread, (presentIf_eq_iff hbit hagree iv).mpr ⟨hb, rfl⟩]
    exact ⟨hagree, rfl, rfl⟩

/-- The fields of R100, read from the descriptor and the payload of a CREATE. -/
structure CreateFields (w0 w1 : Nat) (p : List Byte) (a : CreateArgs) : Prop where
  dir : slice w0 4 4 = a.dir.code
  pad : slice w0 5 5 = a.pad.code
  alg : slice w0 8 6 = a.alg.code
  mode : slice w0 11 9 = a.mode.code
  ctrBE : slice w0 12 12 = a.ctrBE.code
  ivp : slice w0 13 13 = presenceBit a.iv
  twp : slice w0 14 14 = presenceBit a.tweak
  rdp : slice w0 15 15 = presenceBit a.rounds
  keyLen : slice w1 15 0 = a.key.length
  ivLen : slice w1 23 16 = (optBytes a.iv).length
  twLen : slice w1 31 24 = (optBytes a.tweak).length
  payload : p = roundsBytes a.rounds ++ a.key ++ optBytes a.iv ++ optBytes a.tweak

theorem roundsBytes_length (o : Option (BitVec 32)) : (roundsBytes o).length = 4 * presenceBit o := by
  cases o <;> simp [roundsBytes, presenceBit]

/-- Four consecutive reads of a sequence are its parts exactly when the parts make the sequence up. -/
theorem reads_eq_iff_append {p a b c d : List Byte} {i j k l : Nat} (ha : a.length = i) (hb : b.length = j)
    (hc : c.length = k) (hd : d.length = l) (h : p.length = i + j + k + l) :
    p.take i = a ∧ (p.drop i).take j = b ∧ (p.drop (i + j)).take k = c ∧ (p.drop (i + j + k)).take l = d
      ↔ p = a ++ b ++ c ++ d := by
  subst ha hb hc hd
  constructor
  · rintro ⟨ha, hb, hc, hd⟩
    have hlast : (p.drop (a.length + b.length + c.length)).take d.length = p.drop (a.length + b.length + c.length) :=
      List.take_of_length_le (by simp; omega)
    calc p = p.take a.length ++ ((p.drop a.length).take b.length ++ ((p.drop (a.length + b.length)).take c.length
              ++ p.drop (a.length + b.length + c.length))) := by
          rw [← List.drop_drop (l := p) (i := c.length), List.take_append_drop, ← List.drop_drop (l := p) (i := b.length),
            List.take_append_drop, List.take_append_drop]
      _ = a ++ b ++ c ++ d := by rw [← hlast, ha, hb, hc, hd]; simp
  · rintro rfl
    simp only [← List.drop_drop, List.append_assoc, List.drop_left, List.take_left, List.take_length, and_self]

/-- The operands of R100 in terms of the payload. -/
theorem createArgsOf_packetOf (w0 w1 : Nat) (p : List Byte) :
    createArgsOf w0 w1 (packetOf w0 w1 p) =
      { dir := Dir.ofCode (slice w0 4 4)
        pad := Padding.ofCode (slice w0 5 5)
        alg := AlgField.ofCode (slice w0 8 6)
        mode := Mode.ofCode (slice w0 11 9)
        ctrBE := Endian.ofCode (slice w0 12 12)
        rounds := if slice w0 15 15 = 1 then some (BitVec.ofNat 32 (leNat (p.take (4 * slice w0 15 15)))) else none
        key := (p.drop (4 * slice w0 15 15)).take (slice w1 15 0)
        iv := presentIf (slice w0 13 13) ((p.drop (4 * slice w0 15 15 + slice w1 15 0)).take (slice w1 23 16))
        tweak := presentIf (slice w0 14 14)
          ((p.drop (4 * slice w0 15 15 + slice w1 15 0 + slice w1 23 16)).take (slice w1 31 24)) } := by
  have hrounds : cmdRead (packetOf w0 w1 p) 8 4 = p.take 4 := cmdRead_packetOf w0 w1 p 0 4
  simp only [createArgsOf, Nat.add_assoc, cmdRead_packetOf, hrounds, CreateArgs.mk.injEq, true_and, and_true]
  by_cases hr : slice w0 15 15 = 1
  · simp only [hr, if_true]
  · simp only [if_neg hr]

/-- R100: the operands read from a packet whose length is right are those whose fields it has. -/
theorem createArgsOf_eq_iff {w0 w1 : Nat} {p : List Byte}
    (hiv : presenceAgrees (slice w0 13 13) (slice w1 23 16) = true)
    (htw : presenceAgrees (slice w0 14 14) (slice w1 31 24) = true)
    (hlen : p.length = 4 * slice w0 15 15 + slice w1 15 0 + slice w1 23 16 + slice w1 31 24) (a : CreateArgs) :
    createArgsOf w0 w1 (packetOf w0 w1 p) = a ↔ CreateFields w0 w1 p a := by
  have hR : (p.take (4 * slice w0 15 15)).length = 4 * slice w0 15 15 := by simp; omega
  have hK : ((p.drop (4 * slice w0 15 15)).take (slice w1 15 0)).length = slice w1 15 0 := by simp; omega
  have hI : ((p.drop (4 * slice w0 15 15 + slice w1 15 0)).take (slice w1 23 16)).length = slice w1 23 16 := by
    simp; omega
  have hT : ((p.drop (4 * slice w0 15 15 + slice w1 15 0 + slice w1 23 16)).take (slice w1 31 24)).length = slice w1 31 24 := by
    simp; omega
  obtain ⟨dir, pad, alg, mode, ctrBE, rounds, key, iv, tweak⟩ := a
  rw [createArgsOf_packetOf, CreateArgs.mk.injEq, Dir.ofCode_eq_iff (slice_lt w0 4 4), Padding.ofCode_eq_iff (slice_lt w0 5 5),
    AlgField.ofCode_eq_iff (slice_lt w0 8 6), Mode.ofCode_eq_iff (slice_lt w0 11 9), Endian.ofCode_eq_iff (slice_lt w0 12 12),
    rounds_eq_iff (slice_lt w0 15 15) hR, presentIf_eq_iff (slice_lt w0 13 13) (hI.symm ▸ hiv),
    presentIf_eq_iff (slice_lt w0 14 14) (hT.symm ▸ htw)]
  constructor
  · rintro ⟨hdir, hpad, halg, hmode, hbe, ⟨hrdp, hrounds⟩, hkey, ⟨hivp, hivb⟩, htwp, htwb⟩
    rw [hrounds] at hR
    rw [hkey] at hK
    rw [hivb] at hI
    rw [htwb] at hT
    exact ⟨hdir, hpad, halg, hmode, hbe, hivp, htwp, hrdp, hK.symm, hI.symm, hT.symm,
      (reads_eq_iff_append hR hK hI hT hlen).mp ⟨hrounds, hkey, hivb, htwb⟩⟩
  · intro h
    have hrl : (roundsBytes rounds).length = 4 * slice w0 15 15 := by rw [roundsBytes_length, h.rdp]
    obtain ⟨hrounds, hkey, hivb, htwb⟩ :=
      (reads_eq_iff_append hrl h.keyLen.symm h.ivLen.symm h.twLen.symm hlen).mpr h.payload
    exact ⟨h.dir, h.pad, h.alg, h.mode, h.ctrBE, ⟨h.rdp, hrounds⟩, hkey, ⟨h.ivp, hivb⟩, h.twp, htwb⟩

/-- Format C (R100). -/
theorem decodeCreate_eq_instr_iff (w0 w1 : Nat) (p : List Byte) (i : Instr) :
    decodeCreate w0 w1 (packetOf w0 w1 p) = .instr i ↔
      slice w0 31 16 = 0 ∧ ∃ a, i = .create a ∧ CreateFields w0 w1 p a := by
  rw [decodeCreate, refuse_eq_instr_iff (by simp), refuse_eq_instr_iff (by simp), refuse_eq_instr_iff (by simp), not_not,
    not_not, packetOf_length, Bool.not_eq_true', Bool.not_eq_false, Bool.and_eq_true, Decoded.instr.injEq]
  refine and_congr_right fun _ => ?_
  constructor
  · rintro ⟨⟨hiv, htw⟩, hlen, rfl⟩
    exact ⟨_, rfl, (createArgsOf_eq_iff hiv htw (by omega) _).mp rfl⟩
  · rintro ⟨a, rfl, h⟩
    have hiv : presenceAgrees (slice w0 13 13) (slice w1 23 16) = true := by rw [h.ivp, h.ivLen, presenceAgrees_operand]
    have htw : presenceAgrees (slice w0 14 14) (slice w1 31 24) = true := by rw [h.twp, h.twLen, presenceAgrees_operand]
    have hlen : p.length = 4 * slice w0 15 15 + slice w1 15 0 + slice w1 23 16 + slice w1 31 24 := by
      rw [h.rdp, h.keyLen, h.ivLen, h.twLen, ← roundsBytes_length, ← List.length_append, ← List.length_append,
        ← List.length_append, ← h.payload]
    rw [(createArgsOf_eq_iff hiv htw hlen a).mpr h]
    exact ⟨⟨hiv, htw⟩, by omega, rfl⟩

/-! ### Decoding and encoding -/

/-- The descriptor and the payload are those of one well-formed command. -/
def IsPacketOf (w0 w1 : Nat) (p : List Byte) (i : Instr) : Prop :=
  i.WellFormed ∧ w0 = i.w0 ∧ w1 = i.w1 ∧ p = i.payload

theorem wellFormed_create_iff (a : CreateArgs) :
    (Instr.create a).WellFormed ↔
      a.key.length < 2 ^ 16 ∧ (optBytes a.iv).length < 2 ^ 8 ∧ (optBytes a.tweak).length < 2 ^ 8 := by
  have hopt : ∀ o : Option (List Byte), optLenFits o = true ↔ (optBytes o).length < 2 ^ 8 := by
    intro o
    cases o <;> simp [optLenFits, optBytes]
  simp only [Instr.WellFormed, Instr.wf, Bool.and_eq_true, hopt, keyLenFits, decide_eq_true_eq, and_assoc]

/-- The words of a CREATE are its fields at their offsets, and nothing else. -/
theorem createFields_iff {w0 w1 : Nat} (h0 : w0 < 2 ^ 32) (h1 : w1 < 2 ^ 32) (p : List Byte) (a : CreateArgs) :
    slice w0 3 0 = 1 ∧ slice w0 31 16 = 0 ∧ CreateFields w0 w1 p a ↔ IsPacketOf w0 w1 p (.create a) := by
  have hd := Dir.code_lt a.dir
  have hp := Padding.code_lt a.pad
  have ha := AlgField.code_lt a.alg
  have hm := Mode.code_lt a.mode
  have he := Endian.code_lt a.ctrBE
  have hi := presenceBit_lt a.iv
  have ht := presenceBit_lt a.tweak
  have hr := presenceBit_lt a.rounds
  constructor
  · rintro ⟨hop, hz, ⟨fd, fp, fa, fm, fe, fi, ft, fr, fk, fil, ftl, hpay⟩⟩
    simp only [slice] at *
    exact ⟨(wellFormed_create_iff a).mpr ⟨by omega, by omega, by omega⟩, by simp only [Instr.w0]; omega,
      by simp only [Instr.w1]; omega, hpay⟩
  · rintro ⟨hwf, e0, e1, hpay⟩
    obtain ⟨hk, hil, htl⟩ := (wellFormed_create_iff a).mp hwf
    simp only [Instr.w0] at e0
    simp only [Instr.w1] at e1
    refine ⟨?_, ?_, ?_, ?_, ?_, ?_, ?_, ?_, ?_, ?_, ?_, ?_, ?_, hpay⟩ <;> simp only [slice] <;> omega

theorem optLenFits_iff (o : Option (List Byte)) : optLenFits o = true ↔ (optBytes o).length < 2 ^ 8 := by
  cases o <;> simp [optLenFits, optBytes]

/-- R106 answers a command exactly when the descriptor and the payload are the command's (R100 to R105). -/
theorem decode_packetOf_eq_instr_iff {w0 w1 : Nat} (h0 : w0 < 2 ^ 32) (h1 : w1 < 2 ^ 32) (p : List Byte) (i : Instr) :
    decode (packetOf w0 w1 p) = .instr i ↔ IsPacketOf w0 w1 p i := by
  rw [decode_packetOf h0 h1]
  constructor
  · intro h
    split_ifs at h with hop hop hop hop hop hop
    · obtain ⟨hz, a, rfl, hf⟩ := (decodeCreate_eq_instr_iff w0 w1 p i).mp h
      exact (createFields_iff h0 h1 p a).mp ⟨hop, hz, hf⟩
    · obtain ⟨hz, hl, rfl⟩ := (decodeUpdate_eq_instr_iff w0 w1 p i).mp h
      simp only [slice] at hop hz
      exact ⟨decide_eq_true (by omega), by simp only [Instr.w0]; omega, hl, rfl⟩
    · obtain ⟨hz, hw, hp, rfl⟩ := (decodeFinal_eq_instr_iff w0 w1 p i).mp h
      simp only [slice] at hop hz
      exact ⟨rfl, by simp only [Instr.w0]; omega, hw, hp⟩
    · obtain ⟨⟨hz1, hz2, hz3⟩, iv, rfl, hb, hl, hp⟩ := (decodeReset_eq_instr_iff w0 w1 p i).mp h
      simp only [slice] at hop hz1 hz2 hz3 hb hl
      exact ⟨(optLenFits_iff iv).mpr (by omega), by simp only [Instr.w0]; omega, by simp only [Instr.w1]; omega, hp⟩
    · obtain ⟨hz1, hz2, hp, rfl⟩ := (decodeGetOutLen_eq_instr_iff w0 w1 p i).mp h
      have hw1 : w1 = (BitVec.ofNat 32 w1).toNat := by rw [BitVec.toNat_ofNat, Nat.mod_eq_of_lt h1]
      simp only [slice] at hop hz1 hz2
      refine ⟨rfl, ?_, hw1, hp⟩
      simp only [Instr.w0, slice, beq_iff_eq]
      split <;> omega
    · obtain ⟨hz, hw, hp, rfl⟩ := (decodeRelease_eq_instr_iff w0 w1 p i).mp h
      simp only [slice] at hop hz
      exact ⟨rfl, by simp only [Instr.w0]; omega, hw, hp⟩
  · intro h
    cases i with
    | create a =>
      obtain ⟨hop, hz, hf⟩ := (createFields_iff h0 h1 p a).mpr h
      rw [if_pos hop]
      exact (decodeCreate_eq_instr_iff w0 w1 p _).mpr ⟨hz, a, rfl, hf⟩
    | update input =>
      obtain ⟨-, rfl, rfl, rfl⟩ := h
      have hop : slice (Instr.update p).w0 3 0 = 2 := by simp only [Instr.w0, slice]; omega
      simp only [hop, Nat.reduceEqDiff, if_false, if_true]
      exact (decodeUpdate_eq_instr_iff 2 p.length p _).mpr ⟨rfl, rfl, rfl⟩
    | final =>
      obtain ⟨-, rfl, rfl, rfl⟩ := h
      exact (decodeFinal_eq_instr_iff 3 0 [] _).mpr ⟨rfl, rfl, rfl, rfl⟩
    | reset iv =>
      obtain ⟨hwf, e0, e1, hp⟩ := h
      have hl := (optLenFits_iff iv).mp hwf
      have hb := presenceBit_lt iv
      simp only [Instr.w0] at e0
      simp only [Instr.w1] at e1
      have hop : slice w0 3 0 = 4 := by simp only [slice]; omega
      simp only [hop, Nat.reduceEqDiff, if_false, if_true]
      refine (decodeReset_eq_instr_iff w0 w1 p _).mpr ⟨⟨?_, ?_, ?_⟩, iv, rfl, ?_, ?_, hp⟩ <;> simp only [slice] <;> omega
    | getOutLen n fin =>
      obtain ⟨-, e0, rfl, hp⟩ := h
      simp only [Instr.w0] at e0
      have hop : slice w0 3 0 = 5 := by simp only [slice]; omega
      simp only [hop, Nat.reduceEqDiff, if_false, if_true]
      refine (decodeGetOutLen_eq_instr_iff w0 _ p _).mpr ⟨?_, ?_, hp, ?_⟩
      · simp only [slice]
        split at e0 <;> omega
      · simp only [slice]
        split at e0 <;> omega
      · subst e0
        cases fin <;> simp [Instr.w1, slice]
    | release =>
      obtain ⟨-, rfl, rfl, rfl⟩ := h
      exact (decodeRelease_eq_instr_iff 6 0 [] _).mpr ⟨rfl, rfl, rfl, rfl⟩

/-- The descriptor of a well-formed command fits its two words (R91, R92). -/
theorem descriptor_lt {i : Instr} (h : i.WellFormed) : i.w0 < 2 ^ 32 ∧ i.w1 < 2 ^ 32 := by
  cases i with
  | create a =>
    obtain ⟨hk, hil, htl⟩ := (wellFormed_create_iff a).mp h
    have hd := Dir.code_lt a.dir
    have hp := Padding.code_lt a.pad
    have ha := AlgField.code_lt a.alg
    have hm := Mode.code_lt a.mode
    have he := Endian.code_lt a.ctrBE
    have hi := presenceBit_lt a.iv
    have ht := presenceBit_lt a.tweak
    have hr := presenceBit_lt a.rounds
    simp only [Instr.w0, Instr.w1]
    omega
  | update input => exact ⟨(by decide : 2 < 2 ^ 32), of_decide_eq_true h⟩
  | final => decide
  | reset iv =>
    have hl := (optLenFits_iff iv).mp h
    have hb := presenceBit_lt iv
    simp only [Instr.w0, Instr.w1]
    omega
  | getOutLen n fin =>
    refine ⟨?_, n.isLt⟩
    simp only [Instr.w0]
    split <;> omega
  | release => decide

/-- Settles O1: the packet of a command has the command's descriptor and payload. -/
theorem decodeUndoesEncode : Obligations.DecodeUndoesEncode := by
  intro i hwf
  obtain ⟨h0, h1⟩ := descriptor_lt hwf
  rw [encode_eq_packetOf, decode_packetOf_eq_instr_iff h0 h1]
  exact ⟨hwf, rfl, rfl, rfl⟩

theorem length_of_decode_eq_instr {pkt : List Byte} {i : Instr} (h : decode pkt = .instr i) : 8 ≤ pkt.length := by
  by_contra hshort
  rw [decode, if_pos (by omega)] at h
  cases h

/-- Settles O2: a packet that decodes has the descriptor and the payload of its command, and no other byte. -/
theorem encodeUndoesDecode : Obligations.EncodeUndoesDecode := by
  intro pkt i h
  obtain ⟨w0, w1, p, h0, h1, rfl⟩ := exists_eq_packetOf (length_of_decode_eq_instr h)
  obtain ⟨hwf, e0, e1, hp⟩ := (decode_packetOf_eq_instr_iff h0 h1 p i).mp h
  rw [encode_eq_packetOf, e0, e1, hp]
  exact ⟨hwf, rfl⟩

/-- Settles O4: each packet is the encoding of its command, which decoding gives back. -/
theorem sampleWordsDecode : Obligations.SampleWordsDecode :=
  ⟨decodeUndoesEncode (.update [0xaa, 0xbb, 0xcc]) rfl, decodeUndoesEncode .final rfl,
    decodeUndoesEncode (.getOutLen 11 true) rfl, decodeUndoesEncode (.create
      ⟨.encrypt, .none, .known .des, .ctr, .big, none, [1, 2, 3, 4, 5, 6, 7, 8],
        some [0x10, 0x11, 0x12, 0x13, 0x14, 0x15, 0x16, 0x17], none⟩) rfl⟩

end Sys2Proof.Proofs
end

section
/-!
The opcode table (spec/opcode_table.json against 30_encoding.md R106): a row's mask and match are read field by field, and
say of the descriptor what steps 2 and 3 of the decoder test.
-/

namespace Sys2Proof.Proofs

open Sys2Proof.Machine Sys2Proof.Claims

/-! ### Masks, field by field -/

/-- A mask whose lowest `n` bits are ones keeps them. -/
theorem land_ones_append (d n m : Nat) :
    d &&& (2 ^ n - 1 + 2 ^ n * m) = d % 2 ^ n + 2 ^ n * (d / 2 ^ n &&& m) := by
  have hpos : 0 < 2 ^ n := Nat.two_pow_pos n
  have hmod : (2 ^ n - 1 + 2 ^ n * m) % 2 ^ n = 2 ^ n - 1 := by
    rw [Nat.add_mul_mod_self_left, Nat.mod_eq_of_lt (by omega)]
  have hdiv : (2 ^ n - 1 + 2 ^ n * m) / 2 ^ n = m := by
    rw [Nat.add_mul_div_left _ _ hpos, Nat.div_eq_of_lt (by omega), Nat.zero_add]
  rw [← Nat.mod_add_div (d &&& (2 ^ n - 1 + 2 ^ n * m)) (2 ^ n), Nat.and_mod_two_pow, Nat.and_div_two_pow, hmod, hdiv,
    Nat.and_two_pow_sub_one_eq_mod, Nat.mod_mod]

/-- A mask whose lowest `n` bits are zeros drops them. -/
theorem land_zeros_append (d n m : Nat) : d &&& 2 ^ n * m = 2 ^ n * (d / 2 ^ n &&& m) := by
  have hpos : 0 < 2 ^ n := Nat.two_pow_pos n
  rw [← Nat.mod_add_div (d &&& 2 ^ n * m) (2 ^ n), Nat.and_mod_two_pow, Nat.and_div_two_pow, Nat.mul_mod_right,
    Nat.mul_div_cancel_left m hpos, Nat.and_zero, Nat.zero_add]

/-- What each row of the table asks of the two descriptor words (R106 steps 2 and 3). -/
theorem matchesRow_create_iff (w0 w1 : Nat) :
    matchesRow (w0 + 2 ^ 32 * w1) (0x0000000000000001, 0x00000000FFFF000F) ↔ slice w0 3 0 = 1 ∧ slice w0 31 16 = 0 := by
  have hmask : 0x00000000FFFF000F = 2 ^ 4 - 1 + 2 ^ 4 * (2 ^ 12 * (2 ^ 16 - 1)) := rfl
  rw [matchesRow, hmask, land_ones_append, land_zeros_append, Nat.and_two_pow_sub_one_eq_mod]
  simp only [slice]
  omega

theorem matchesRow_update_iff {w0 w1 : Nat} (h0 : w0 < 2 ^ 32) :
    matchesRow (w0 + 2 ^ 32 * w1) (0x0000000000000002, 0x00000000FFFFFFFF) ↔ slice w0 3 0 = 2 ∧ slice w0 31 4 = 0 := by
  have hmask : 0x00000000FFFFFFFF = 2 ^ 32 - 1 := rfl
  rw [matchesRow, hmask, Nat.and_two_pow_sub_one_eq_mod]
  simp only [slice]
  omega

theorem matchesRow_final_iff {w0 w1 : Nat} (h0 : w0 < 2 ^ 32) (h1 : w1 < 2 ^ 32) :
    matchesRow (w0 + 2 ^ 32 * w1) (0x0000000000000003, 0xFFFFFFFFFFFFFFFF) ↔
      slice w0 3 0 = 3 ∧ slice w0 31 4 = 0 ∧ w1 = 0 := by
  have hmask : 0xFFFFFFFFFFFFFFFF = 2 ^ 64 - 1 := rfl
  rw [matchesRow, hmask, Nat.and_two_pow_sub_one_eq_mod]
  simp only [slice]
  omega

theorem matchesRow_reset_iff {w0 w1 : Nat} (h0 : w0 < 2 ^ 32) (h1 : w1 < 2 ^ 32) :
    matchesRow (w0 + 2 ^ 32 * w1) (0x0000000000000004, 0xFFFFFF00FFFFDFFF) ↔
      slice w0 3 0 = 4 ∧ slice w0 31 14 = 0 ∧ slice w0 12 4 = 0 ∧ slice w1 31 8 = 0 := by
  have hmask : 0xFFFFFF00FFFFDFFF = 2 ^ 13 - 1 + 2 ^ 13 * (2 ^ 1 * (2 ^ 18 - 1 + 2 ^ 18 * (2 ^ 8 * (2 ^ 24 - 1)))) := rfl
  rw [matchesRow, hmask, land_ones_append, land_zeros_append, land_ones_append, land_zeros_append,
    Nat.and_two_pow_sub_one_eq_mod]
  simp only [slice]
  omega

theorem matchesRow_getOutLen_iff {w0 w1 : Nat} (h0 : w0 < 2 ^ 32) :
    matchesRow (w0 + 2 ^ 32 * w1) (0x0000000000000005, 0x00000000FFFEFFFF) ↔
      slice w0 3 0 = 5 ∧ slice w0 31 17 = 0 ∧ slice w0 15 4 = 0 := by
  have hmask : 0x00000000FFFEFFFF = 2 ^ 16 - 1 + 2 ^ 16 * (2 ^ 1 * (2 ^ 15 - 1)) := rfl
  rw [matchesRow, hmask, land_ones_append, land_zeros_append, Nat.and_two_pow_sub_one_eq_mod]
  simp only [slice]
  omega

theorem matchesRow_release_iff {w0 w1 : Nat} (h0 : w0 < 2 ^ 32) (h1 : w1 < 2 ^ 32) :
    matchesRow (w0 + 2 ^ 32 * w1) (0x0000000000000006, 0xFFFFFFFFFFFFFFFF) ↔
      slice w0 3 0 = 6 ∧ slice w0 31 4 = 0 ∧ w1 = 0 := by
  have hmask : 0xFFFFFFFFFFFFFFFF = 2 ^ 64 - 1 := rfl
  rw [matchesRow, hmask, Nat.and_two_pow_sub_one_eq_mod]
  simp only [slice]
  omega

/-- The descriptor passes steps 2 and 3 of R106. -/
def descriptorOK (w0 w1 : Nat) : Prop :=
  (slice w0 3 0 = 1 ∧ slice w0 31 16 = 0) ∨ (slice w0 3 0 = 2 ∧ slice w0 31 4 = 0)
    ∨ (slice w0 3 0 = 3 ∧ slice w0 31 4 = 0 ∧ w1 = 0)
    ∨ (slice w0 3 0 = 4 ∧ slice w0 31 14 = 0 ∧ slice w0 12 4 = 0 ∧ slice w1 31 8 = 0)
    ∨ (slice w0 3 0 = 5 ∧ slice w0 31 17 = 0 ∧ slice w0 15 4 = 0) ∨ (slice w0 3 0 = 6 ∧ slice w0 31 4 = 0 ∧ w1 = 0)

theorem exists_matchesRow_iff {w0 w1 : Nat} (h0 : w0 < 2 ^ 32) (h1 : w1 < 2 ^ 32) :
    (∃ row ∈ opcodeRows, matchesRow (w0 + 2 ^ 32 * w1) row) ↔ descriptorOK w0 w1 := by
  simp only [opcodeRows, List.exists_mem_cons_iff, List.not_mem_nil, false_and, exists_false, or_false,
    matchesRow_create_iff, matchesRow_update_iff h0, matchesRow_final_iff h0 h1, matchesRow_reset_iff h0 h1,
    matchesRow_getOutLen_iff h0, matchesRow_release_iff h0 h1, descriptorOK]

/-! ### Where the decoder stops -/

/-- The step at which a format stops is step 3 exactly when its first test fails. -/
theorem stops_iff {P : Prop} [Decidable P] {rest : Decoded} (h2 : rest ≠ .reservedOpcode) (h3 : rest ≠ .mustBeZero) :
    ((if P then .mustBeZero else rest) ≠ Decoded.reservedOpcode ∧ (if P then .mustBeZero else rest) ≠ Decoded.mustBeZero)
      ↔ ¬P := by
  split <;> simp_all

theorem decode_passes_iff {w0 w1 : Nat} (h0 : w0 < 2 ^ 32) (h1 : w1 < 2 ^ 32) (p : List Byte) :
    (decode (packetOf w0 w1 p) ≠ .reservedOpcode ∧ decode (packetOf w0 w1 p) ≠ .mustBeZero) ↔ descriptorOK w0 w1 := by
  rw [decode_packetOf h0 h1]
  split_ifs with hop hop hop hop hop hop
  · rw [decodeCreate, stops_iff (by split_ifs <;> simp) (by split_ifs <;> simp), descriptorOK]
    omega
  · rw [decodeUpdate, stops_iff (by split_ifs <;> simp) (by split_ifs <;> simp), descriptorOK]
    omega
  · rw [decodeFinal, stops_iff (by split_ifs <;> simp) (by split_ifs <;> simp), descriptorOK]
    omega
  · rw [decodeReset, stops_iff (by split_ifs <;> simp) (by split_ifs <;> simp), descriptorOK]
    omega
  · rw [decodeGetOutLen, stops_iff (by split_ifs <;> simp) (by split_ifs <;> simp), descriptorOK]
    omega
  · rw [decodeRelease, stops_iff (by split_ifs <;> simp) (by split_ifs <;> simp), descriptorOK]
    omega
  · simp only [ne_eq, not_true_eq_false, false_and, false_iff, descriptorOK]
    omega

/-- The descriptor as the number `D` of R90. -/
theorem leNat_take_eight (w0 w1 : Nat) (h0 : w0 < 2 ^ 32) (h1 : w1 < 2 ^ 32) (p : List Byte) :
    leNat ((packetOf w0 w1 p).take 8) = w0 + 2 ^ 32 * w1 := by
  have hword : 256 ^ 4 = 2 ^ 32 := rfl
  rw [packetOf, List.take_left' (by simp), leNat_append, leNat_u32le h0, leNat_u32le h1, u32le_length, hword]

/-- The rows differ in the opcode, which every mask keeps. -/
theorem row_opcode {d : Nat} {row : Nat × Nat} (hrow : row ∈ opcodeRows) (h : matchesRow d row) : row.1 = d % 16 := by
  have hrows : ∀ row ∈ opcodeRows, row.2 % 2 ^ 4 = 2 ^ 4 - 1 ∧ row.1 < 2 ^ 4 := by decide
  obtain ⟨hmask, hlt⟩ := hrows row hrow
  calc row.1 = (d &&& row.2) % 2 ^ 4 := by rw [h, Nat.mod_eq_of_lt hlt]
    _ = d % 16 := by rw [Nat.and_mod_two_pow, hmask, Nat.and_two_pow_sub_one_eq_mod, Nat.mod_mod]

/-- Settles O3: the rows and the decoder both ask `descriptorOK` of the two words. -/
theorem opcodeTableIsStepsTwoAndThree : Obligations.OpcodeTableIsStepsTwoAndThree := by
  intro pkt hlen
  obtain ⟨w0, w1, p, h0, h1, rfl⟩ := exists_eq_packetOf hlen
  rw [leNat_take_eight w0 w1 h0 h1, exists_matchesRow_iff h0 h1, decode_passes_iff h0 h1]
  refine ⟨Iff.rfl, fun r hr r' hr' hm hm' => ?_⟩
  have hinj : ∀ r ∈ opcodeRows, ∀ r' ∈ opcodeRows, r.1 = r'.1 → r = r' := by decide
  exact hinj r hr r' hr' ((row_opcode hr hm).trans (row_opcode hr' hm').symm)

end Sys2Proof.Proofs
end

section
/-!
The Padding Policy (spec file 43_padding.md, R240, R241) and the field multiplication of XTS (42_mode_driver.md, R222).
-/

namespace Sys2Proof.Proofs

open Sys2Proof.Machine Sys2Proof.Claims

/-! ### Padding -/

/-- R241 accepts a payload with its fill and gives the payload back. -/
theorem pkcs7Unpad_append_fill (payload : List Byte) {n : Nat} (hpos : 1 ≤ n) (hle : n ≤ 255) :
    pkcs7Unpad (payload ++ List.replicate n (BitVec.ofNat 8 n)) (payload.length + n) = some payload := by
  have hfill : (payload ++ List.replicate n (BitVec.ofNat 8 n)).getD (payload.length + n - 1) 0#8 = BitVec.ofNat 8 n := by
    rw [List.getD_append_right _ _ _ _ (by omega), List.getD_replicate _ (by omega)]
  have hval : (BitVec.ofNat 8 n).toNat = n := by
    rw [BitVec.toNat_ofNat]
    omega
  have hrange : ¬(n = 0 ∨ payload.length + n < n) := by omega
  simp only [pkcs7Unpad, hfill, hval, if_neg hrange, Nat.add_sub_cancel, List.drop_left, List.take_left, List.all_replicate]
  simp

/-- What R241 accepts is the payload and its fill. -/
theorem eq_append_fill_of_pkcs7Unpad {bs : Nat} {b payload : List Byte} (hlen : b.length = bs)
    (h : pkcs7Unpad b bs = some payload) :
    ∃ n, 1 ≤ n ∧ n ≤ bs ∧ b = payload ++ List.replicate n (BitVec.ofNat 8 n) := by
  simp only [pkcs7Unpad] at h
  split at h
  · cases h
  · next hrange =>
    split at h
    · next hall =>
      obtain rfl := Option.some.inj h
      refine ⟨(b.getD (bs - 1) 0#8).toNat, by omega, by omega, ?_⟩
      have htail : b.drop (bs - (b.getD (bs - 1) 0#8).toNat)
          = List.replicate (b.getD (bs - 1) 0#8).toNat (b.getD (bs - 1) 0#8) := by
        rw [List.eq_replicate_iff]
        refine ⟨by rw [List.length_drop]; omega, fun x hx => ?_⟩
        exact eq_of_beq (List.all_eq_true.mp hall x hx)
      rw [BitVec.ofNat_toNat, BitVec.setWidth_eq, ← htail, List.take_append_drop]
    · cases h

theorem pkcs7Unpad_eq_some_iff {bs : Nat} (hbs : bs ≤ 255) {b payload : List Byte} (hlen : b.length = bs) :
    pkcs7Unpad b bs = some payload ↔ ∃ n, 1 ≤ n ∧ n ≤ bs ∧ b = payload ++ List.replicate n (BitVec.ofNat 8 n) := by
  refine ⟨eq_append_fill_of_pkcs7Unpad hlen, ?_⟩
  rintro ⟨n, hpos, hle, rfl⟩
  have hsum : payload.length + n = bs := by simpa using hlen
  have h := pkcs7Unpad_append_fill payload hpos (hle.trans hbs)
  rwa [hsum] at h

/-- Settles O54: the two directions are the two lemmas on a payload and its fill. -/
theorem unpadAcceptsExactlyPadded : Obligations.UnpadAcceptsExactlyPadded :=
  fun _ _ _ _ hbs hlen => pkcs7Unpad_eq_some_iff hbs hlen

/-- R240 makes a whole block. -/
theorem pkcs7Pad_length {p : List Byte} {bs : Nat} (h : p.length ≤ bs) : (pkcs7Pad p bs).length = bs := by
  simp only [pkcs7Pad, List.length_append, List.length_replicate]
  omega

theorem pkcs7Unpad_pkcs7Pad {p : List Byte} {bs : Nat} (hbs : bs ≤ 255) (h : p.length < bs) :
    pkcs7Unpad (pkcs7Pad p bs) bs = some p :=
  (pkcs7Unpad_eq_some_iff hbs (pkcs7Pad_length (by omega))).mpr ⟨bs - p.length, by omega, by omega, rfl⟩

/-- Settles O55: the fill has `bs - p.length` bytes. -/
theorem unpadInvertsPad : Obligations.UnpadInvertsPad := by
  intro bs p hbs hp
  exact ⟨pkcs7Pad_length (by omega), ⟨bs - p.length, by omega, by omega, rfl⟩, pkcs7Unpad_pkcs7Pad hbs hp⟩

/-! ### `MulAlpha` -/

/-- One byte of the shift: its own bits one place up, and the top bit of the byte before it. -/
theorem shifted_byte_toNat (b prev : Byte) : ((b <<< 1) ||| (prev >>> 7)).toNat = 2 * b.toNat % 256 + prev.toNat / 128 := by
  have hprev := prev.isLt
  have hdisjoint : (b <<< 1) &&& (prev >>> 7) = 0#8 := by
    have hcarry : prev >>> 7 = 0#8 ∨ prev >>> 7 = 1#8 := by bv_omega
    rcases hcarry with h | h
    · rw [h, BitVec.and_zero]
    · rw [h]
      revert b
      decide
  rw [← BitVec.add_eq_or_of_and_eq_zero _ _ hdisjoint]
  bv_omega

/-- The shift doubles the number, takes the carry in and drops what leaves the last byte. -/
theorem leNat_shiftLeftBytes (prev : Byte) (l : List Byte) :
    leNat (shiftLeftBytes prev l) = (2 * leNat l + prev.toNat / 128) % 256 ^ l.length := by
  induction l generalizing prev with
  | nil => simp [shiftLeftBytes, leNat, Nat.mod_one]
  | cons b t ih =>
    have hprev := prev.isLt
    have hb := b.isLt
    have hlow : (2 * leNat (b :: t) + prev.toNat / 128) % 256 = 2 * b.toNat % 256 + prev.toNat / 128 := by
      rw [leNat]
      omega
    have hhigh : (2 * leNat (b :: t) + prev.toNat / 128) / 256 = 2 * leNat t + b.toNat / 128 := by
      rw [leNat]
      omega
    rw [shiftLeftBytes, leNat, shifted_byte_toNat, ih, List.length_cons, Nat.pow_succ', Nat.mod_mul, hlow, hhigh]

/-- The reduction flips bits of the lowest byte only. -/
theorem leNat_reduceTweak {l : List Byte} (h : l ≠ []) : leNat (reduceTweak l) = leNat l ^^^ 0x87 := by
  obtain ⟨b, t, rfl⟩ := List.exists_cons_of_ne_nil h
  have hb := b.isLt
  have hlow : (b.toNat + 256 * leNat t) % 2 ^ 8 = b.toNat := by omega
  have hhigh : (b.toNat + 256 * leNat t) / 2 ^ 8 = leNat t := by omega
  have hmask : 0x87 % 2 ^ 8 = 0x87 ∧ 0x87 / 2 ^ 8 = 0 := by decide
  rw [reduceTweak, leNat, leNat, ← Nat.mod_add_div ((b.toNat + 256 * leNat t) ^^^ 0x87) (2 ^ 8), Nat.xor_mod_two_pow,
    Nat.xor_div_two_pow, hlow, hhigh, hmask.1, hmask.2, Nat.xor_zero, BitVec.toNat_xor]
  rfl

/-- The top bit of 16 bytes. -/
theorem getLastD_shift_eq_one_iff {t : List Byte} (h : t.length = 16) :
    t.getLastD 0#8 >>> 7 = 1#8 ↔ 2 ^ 127 ≤ leNat t := by
  obtain ⟨init, b, rfl⟩ : ∃ init b, t = init ++ [b] :=
    ⟨t.dropLast, t.getLast (by rintro rfl; cases h), (List.dropLast_append_getLast _).symm⟩
  have hinit : init.length = 15 := by simpa using h
  have hlt := leNat_lt init
  rw [hinit] at hlt
  have hb := b.isLt
  have htop : b >>> 7 = 1#8 ↔ 128 ≤ b.toNat := by bv_omega
  rw [List.getLastD_concat, htop, leNat_append, hinit, leNat, leNat]
  omega

/-- Settles O57: the shift doubles modulo `2^128`, and the top bit decides the reduction. -/
theorem mulAlphaArithmetic : Obligations.MulAlphaArithmetic := by
  intro t hlen
  have hshift : leNat (shiftLeftBytes 0#8 t) = 2 * leNat t % 2 ^ 128 := by
    have hmod : 256 ^ 16 = 2 ^ 128 := rfl
    rw [leNat_shiftLeftBytes, hlen, hmod]
    rfl
  refine ⟨(mulAlpha_length t).trans hlen, ?_⟩
  have htop := getLastD_shift_eq_one_iff hlen
  simp only [mulAlpha]
  by_cases hbig : 2 ^ 127 ≤ leNat t
  · have hne : shiftLeftBytes 0#8 t ≠ [] := by
      rw [← List.length_pos_iff, shiftLeftBytes_length]
      omega
    rw [if_pos (htop.mpr hbig), if_pos hbig, leNat_reduceTweak hne, hshift]
  · rw [if_neg (mt htop.mp hbig), if_neg hbig, hshift, Nat.xor_zero]

end Sys2Proof.Proofs
end

section
/-!
The command port and the step (spec files 20_memory.md R60 to R72, 70_reset_and_hazards.md R290, R291): what one event of
the port does, once per kind of event.
-/

namespace Sys2Proof.Proofs

open Sys2Proof.Machine Sys2Proof.Claims

variable {run : Instr → State → Host.Outcome State Fault Refusal} {s : State}

theorem serve_idle (h : s.cmdPort = []) : serve run s = .next s := by
  rw [serve, h]

theorem serve_hardwareReset {later : List PortEvent} (h : s.cmdPort = .hardwareReset :: later) :
    serve run s = .next { State.reset with cmdPort := later } := by
  rw [serve, h]

theorem serve_packet {pkt : List Byte} {later : List PortEvent} (h : s.cmdPort = .packet pkt :: later) :
    serve run s = servePacket run pkt { s with cmdPort := later } := by
  rw [serve, h]

theorem servePacket_of_instr {pkt : List Byte} {i : Instr} (h : decode pkt = .instr i) : servePacket run pkt s = run i s := by
  rw [servePacket, h]

/-- All five ways to be malformed have one answer (R106). -/
theorem servePacket_of_malformed {pkt : List Byte} (h : ∀ i, decode pkt ≠ .instr i) :
    servePacket run pkt s = failClassA s .paramError := by
  unfold servePacket
  cases hd : decode pkt with
  | instr i => exact absurd hd (h i)
  | tooShort | reservedOpcode | mustBeZero | presenceMismatch | lengthMismatch => rfl

theorem toOption_eq_some_iff (d : Decoded) (i : Instr) : d.toOption = some i ↔ d = .instr i := by
  cases d <;> simp [Decoded.toOption]

/-- Settles O6. -/
theorem stepRunsDecodedCommand : Obligations.StepRunsDecodedCommand := by
  intro s pkt later i hport hdecode
  rw [step, serve_packet hport, servePacket_of_instr hdecode]

/-- Settles O7: the answer is the class A failure, whose packet has 12 bytes. -/
theorem malformedPacketChangesNothing : Obligations.MalformedPacketChangesNothing := by
  intro s pkt later hport hmalformed
  have hpacket : responsePacket .paramError [] 0 = [1, 0, 0, 0, 0, 0, 0, 0, 0, 0, 0, 0] := by decide
  rw [step, serve_packet hport, servePacket_of_malformed hmalformed, failClassA, State.respond, hpacket]

/-- Settles O8: the reset values are those `State.reset` lists. -/
theorem hardwareResetStep : Obligations.HardwareResetStep := fun _ _ hport => serve_hardwareReset hport

/-- Settles O9. -/
theorem idleStep : Obligations.IdleStep := fun _ hport => serve_idle hport

/-- Settles O10: the word's packet stands at the head of the port, and taking it gives the state back. -/
theorem fetchWordRuns : Obligations.FetchWordRuns := by
  intro s nbits w i hword
  have hport : (s.withFetchWord nbits w).cmdPort = .packet (tablePacket nbits w) :: s.cmdPort := rfl
  rw [step, serve_packet hport, servePacket_of_instr ((toOption_eq_some_iff _ i).mp hword)]
  rfl

end Sys2Proof.Proofs
end

section
/-!
What every answer is (spec files 60_exceptions.md R250, 40_session_commands.md R130, 10_state.md R22 to R28): one response,
a cell of the transition table, and the configuration kept. Each is a case analysis over the rows of `Answered`.
-/

namespace Sys2Proof.Proofs

open Sys2Proof.Machine Sys2Proof.Claims

/-- Only UPDATE's path and `flush` compute anything, and neither touches the configuration, `ST` or a port. -/
theorem push_frame (c : Config) (s : State) (input : List Byte) :
    sameConfiguration s (push c s input).1 ∧ (push c s input).1.rspPort = s.rspPort
      ∧ (push c s input).1.cmdPort = s.cmdPort ∧ (push c s input).1.ivt0 = s.ivt0
      ∧ (push c s input).1.total = s.total := by
  obtain ⟨ivt, kstr, kpos, sstate, pend, plen, hpush⟩ := push_state c s input
  rw [hpush]
  exact ⟨⟨rfl, rfl, rfl, rfl, rfl, rfl, rfl⟩, rfl, rfl, rfl, rfl⟩

theorem createChecks_status {c : Config} {a : CreateArgs} {alg : Alg} {status : Status}
    (h : firstFailure (createChecks c a alg) = some status) : status = .unimplemented ∨ status = .paramError := by
  have hmem : ∀ {l : List (Bool × Status)}, firstFailure l = some status → status ∈ l.map Prod.snd := by
    intro l
    induction l with
    | nil => intro h; cases h
    | cons p rest ih =>
      obtain ⟨b, st⟩ := p
      cases b with
      | true => exact fun h => List.mem_cons_of_mem _ (ih h)
      | false =>
        intro h
        obtain rfl := Option.some.inj h
        exact List.mem_cons_self
  simpa [createChecks] using hmem h

/-- R183: what is emitted after unpadding is part of one block. -/
theorem pkcs7Unpad_length_le {bs : Nat} {b payload : List Byte} (h : pkcs7Unpad b bs = some payload) :
    payload.length ≤ b.length := by
  simp only [pkcs7Unpad] at h
  split at h
  · cases h
  · split at h
    · obtain rfl := Option.some.inj h
      exact List.length_take_le' _ _
    · cases h

/-- FINAL emits at most one block (R182 to R184). -/
theorem flush_data_length_le {c : Config} {s t : State} {data : List Byte} (hs : s.sound = true) (hactive : s.st = .active)
    (h : flush c s = .output t data) : data.length ≤ s.blockLen := by
  have h16 : s.blockLen ≤ 16 := ((State.sound_iff s).mp hs).2.2.1
  unfold flush at h
  split at h
  · cases h
    exact Nat.zero_le _
  · next m hm =>
    have hplen := State.plen_lt hs hactive hm
    split at h
    · next hpad hdir =>
      rw [State.hold_eq, if_neg (by simp [hdir])] at hplen
      cases h
      exact (blockUnit_length c m (pkcs7Pad_length (by rw [State.pendBytes_length]; omega)) h16).le
    · unfold finalDecPad at h
      split at h
      · cases h
      · next hfull =>
        have hblock : s.pendBytes.length = s.blockLen := by rw [State.pendBytes_length]; omega
        dsimp only at h
        split at h
        · cases h
        · next hunpad =>
          cases h
          rw [← blockUnit_length c m hblock h16]
          exact pkcs7Unpad_length_le hunpad
    · unfold finalNoPad at h
      split at h
      · cases h
      · cases h
        exact Nat.zero_le _

/-- The response of a command: what R250 and R260 let it be. -/
structure GoodResponse (i : Instr) (status : Status) (data : List Byte) (value : Nat) : Prop where
  data_lt : data.length < 2 ^ 32
  value_lt : value < 2 ^ 32
  error_bare : status ≠ .success → data = [] ∧ value = 0
  raised : status ∈ [Status.success, .paramError, .decodeError, .unimplemented, .overflow]
  data_from : data ≠ [] → (∃ input, i = .update input) ∨ i = .final
  value_from : value ≠ 0 → ∃ n fin, i = .getOutLen n fin

/-- A response without data and value. -/
theorem goodResponse_bare (i : Instr) {status : Status}
    (h : status ∈ [Status.success, .paramError, .decodeError, .unimplemented, .overflow]) : GoodResponse i status [] 0 where
  data_lt := by decide
  value_lt := by decide
  error_bare _ := ⟨rfl, rfl⟩
  raised := h
  data_from h := absurd rfl h
  value_from h := absurd rfl h

/-- A response of UPDATE or FINAL with data. -/
theorem goodResponse_data {i : Instr} {data : List Byte} (h : data.length < 2 ^ 32)
    (hi : (∃ input, i = .update input) ∨ i = .final) : GoodResponse i .success data 0 where
  data_lt := h
  value_lt := by decide
  error_bare h := absurd rfl h
  raised := by decide
  data_from _ := hi
  value_from h := absurd rfl h

/-- R250 under any configuration: one response, of a form the command can have. -/
theorem answered_oneResponse {c : Config} {i : Instr} {s t : State} (h : Answered c s i t) :
    ∃ status data value, t.rspPort = s.rspPort ++ [responsePacket status data value] ∧ t.cmdPort = s.cmdPort
      ∧ GoodResponse i status data value := by
  cases h with
  | createUnadmitted | createReserved | updateUnadmitted | finalUnadmitted | resetUnadmitted | resetFails
  | getOutLenUnadmitted | releaseUnadmitted => exact ⟨.paramError, [], 0, rfl, rfl, goodResponse_bare _ (by decide)⟩
  | createFails a alg status _ _ hf =>
    exact ⟨status, [], 0, rfl, rfl, goodResponse_bare _ (by rcases createChecks_status hf with rfl | rfl <;> decide)⟩
  | createDone | resetDone | releaseDone => exact ⟨.success, [], 0, rfl, rfl, goodResponse_bare _ (by decide)⟩
  | updateOverflows | getOutLenOverflows => exact ⟨.overflow, [], 0, rfl, rfl, goodResponse_bare _ (by decide)⟩
  | updateDone x _ hs _ h32 =>
    obtain ⟨-, hrsp, hcmd, -, -⟩ := push_frame c s x
    rw [← push_length c hs] at h32
    refine ⟨.success, (push c s x).2, 0, ?_, hcmd, goodResponse_data (by omega) (.inl ⟨x, rfl⟩)⟩
    rw [State.respond_rspPort, State.addTotal_rspPort, hrsp]
  | finalFails status _ _ hf =>
    exact ⟨status, [], 0, rfl, rfl, goodResponse_bare _ (by rcases flush_error hf with rfl | rfl <;> decide)⟩
  | finalDone u data hactive hs hf =>
    have hle := flush_data_length_le hs hactive hf
    have h16 := ((State.sound_iff s).mp hs).2.2.1
    obtain ⟨v, rfl⟩ := flush_state hf
    exact ⟨.success, data, 0, rfl, rfl, goodResponse_data (by omega) (.inr rfl)⟩
  | getOutLenDone n fin _ _ h32 =>
    refine ⟨.success, [], outLen s n.toNat fin, rfl, rfl, ⟨by decide, by omega, fun h => absurd rfl h, by decide, ?_, ?_⟩⟩
    · exact fun h => absurd rfl h
    · exact fun _ => ⟨n, fin, rfl⟩

/-- Settles O17. -/
theorem everyAnswerIsOneResponse : Obligations.EveryAnswerIsOneResponse := by
  intro i s t hexec
  rw [exec_eq_execWith] at hexec
  obtain ⟨status, data, value, hrsp, hcmd, hgood⟩ := answered_oneResponse (execWith_answered hexec)
  exact ⟨status, data, value, hrsp, hcmd, hgood.data_lt, hgood.value_lt, hgood.error_bare, hgood.raised, hgood.data_from,
    hgood.value_from⟩

/-! ### The transition table -/

theorem transitions_create_live {st : SessionState} (h : st ≠ .empty) (a : CreateArgs) :
    (Status.paramError, st) ∈ transitions st (.create a) := by
  cases st with
  | empty => exact absurd rfl h
  | active | finalized | errored => simp [transitions, fromActive, fromEnded]

theorem transitions_data_inactive {st : SessionState} (h : st ≠ .active) {i : Instr}
    (hi : (∃ x, i = .update x) ∨ i = .final) : (Status.paramError, st) ∈ transitions st i := by
  cases st with
  | active => exact absurd rfl h
  | empty | finalized | errored => rcases hi with ⟨x, rfl⟩ | rfl <;> simp [transitions, fromEmpty, fromEnded]

theorem transitions_reset_live {st : SessionState} (h : st ≠ .empty) (iv : Option (List Byte)) :
    (Status.success, .active) ∈ transitions st (.reset iv) ∧ (Status.paramError, st) ∈ transitions st (.reset iv) := by
  cases st with
  | empty => exact absurd rfl h
  | active | finalized | errored => simp [transitions, fromActive, fromEnded]

theorem transitions_getOutLen_live {st : SessionState} (h : st ≠ .empty) (n : BitVec 32) (fin : Bool) :
    (Status.success, st) ∈ transitions st (.getOutLen n fin) ∧ (Status.overflow, st) ∈ transitions st (.getOutLen n fin) := by
  cases st with
  | empty => exact absurd rfl h
  | active | finalized | errored => simp [transitions, fromActive, fromEnded]

theorem transitions_release_live {st : SessionState} (h : st ≠ .empty) :
    (Status.success, SessionState.empty) ∈ transitions st .release := by
  cases st with
  | empty => exact absurd rfl h
  | active | finalized | errored => simp [transitions, fromActive, fromEnded]

/-- R130 under any configuration: `ST` picks the row, and the way the command ends is an entry of its cell. -/
theorem answered_transition {c : Config} {i : Instr} {s t : State} (h : Answered c s i t) :
    ∃ status data value, t.rspPort = s.rspPort ++ [responsePacket status data value]
      ∧ (status, t.st) ∈ transitions s.st i := by
  cases h with
  | createUnadmitted a h => exact ⟨_, _, _, rfl, transitions_create_live h a⟩
  | createReserved a h => exact ⟨_, _, _, rfl, by simp [h, transitions, fromEmpty]⟩
  | createFails a alg status h _ hf =>
    exact ⟨_, _, _, rfl, by rcases createChecks_status hf with rfl | rfl <;> simp [h, transitions, fromEmpty]⟩
  | createDone a alg h => exact ⟨_, _, _, rfl, by simp [h, transitions, fromEmpty]⟩
  | updateUnadmitted x h => exact ⟨_, _, _, rfl, transitions_data_inactive h (.inl ⟨x, rfl⟩)⟩
  | updateOverflows x h => exact ⟨_, _, _, rfl, by simp [h, transitions, fromActive]⟩
  | updateDone x h =>
    obtain ⟨-, hrsp, -, -, -⟩ := push_frame c s x
    refine ⟨.success, (push c s x).2, 0, by rw [State.respond_rspPort, State.addTotal_rspPort, hrsp], ?_⟩
    rw [State.respond_st, State.addTotal_st, push_st]
    simp [h, transitions, fromActive]
  | finalUnadmitted h => exact ⟨_, _, _, rfl, transitions_data_inactive h (.inr rfl)⟩
  | finalFails status h _ hf =>
    exact ⟨_, _, _, rfl, by rcases flush_error hf with rfl | rfl <;> simp [h, transitions, fromActive]⟩
  | finalDone u data h _ hf =>
    obtain ⟨v, rfl⟩ := flush_state hf
    exact ⟨_, _, _, rfl, by simp [h, transitions, fromActive]⟩
  | resetUnadmitted iv h => exact ⟨_, _, _, rfl, by simp [h, transitions, fromEmpty]⟩
  | resetFails iv h => exact ⟨_, _, _, rfl, (transitions_reset_live h iv).2⟩
  | resetDone iv h => exact ⟨_, _, _, rfl, (transitions_reset_live h iv).1⟩
  | getOutLenUnadmitted n fin h => exact ⟨_, _, _, rfl, by simp [h, transitions, fromEmpty]⟩
  | getOutLenOverflows n fin h => exact ⟨_, _, _, rfl, (transitions_getOutLen_live h n fin).2⟩
  | getOutLenDone n fin h => exact ⟨_, _, _, rfl, (transitions_getOutLen_live h n fin).1⟩
  | releaseUnadmitted h => exact ⟨_, _, _, rfl, by simp [h, transitions, fromEmpty]⟩
  | releaseDone h => exact ⟨_, _, _, rfl, transitions_release_live h⟩

/-- Settles O19. -/
theorem sessionTransitions : Obligations.SessionTransitions := by
  intro i s t hexec
  rw [exec_eq_execWith] at hexec
  exact answered_transition (execWith_answered hexec)

/-! ### The configuration -/

@[simp] theorem sameConfiguration_refl (s : State) : sameConfiguration s s := ⟨rfl, rfl, rfl, rfl, rfl, rfl, rfl⟩

theorem answered_configuration {c : Config} {i : Instr} {s t : State} (h : Answered c s i t) :
    sameConfiguration s t ∨ ((∃ a, i = .create a) ∧ s.st = .empty ∧ t.st = .active)
      ∨ (i = .release ∧ sameConfiguration State.reset t) := by
  cases h with
  | createDone a alg h => exact .inr (.inl ⟨⟨a, rfl⟩, h, rfl⟩)
  | releaseDone => exact .inr (.inr ⟨rfl, sameConfiguration_refl State.reset⟩)
  | updateDone x => exact .inl (push_frame c s x).1
  | finalDone u data _ _ hf =>
    obtain ⟨v, rfl⟩ := flush_state hf
    exact .inl (sameConfiguration_refl s)
  | createUnadmitted | createReserved | createFails | updateUnadmitted | updateOverflows | finalUnadmitted | finalFails
  | resetUnadmitted | resetFails | resetDone | getOutLenUnadmitted | getOutLenOverflows | getOutLenDone
  | releaseUnadmitted => exact .inl (sameConfiguration_refl s)

/-- Settles O20. -/
theorem configurationIsImmutable : Obligations.ConfigurationIsImmutable := by
  intro i s t hexec
  rw [exec_eq_execWith] at hexec
  exact answered_configuration (execWith_answered hexec)

end Sys2Proof.Proofs
end

section
/-!
The ports do not matter (spec files 20_memory.md R72, 40_session_commands.md R140 case (e)): a command does with other
contents of the ports what it does with these, so equal registers give equal answers, along any sequence of commands.
-/

namespace Sys2Proof.Proofs

open Sys2Proof.Machine Sys2Proof.Claims

/-- The registers of a state with other contents of the ports. -/
def atPorts (s : State) (cmd : List PortEvent) (rsp : List (List Byte)) : State := s.outer s.total cmd rsp

theorem sameRegisters_iff (s t : State) : sameRegisters s t ↔ t = atPorts s t.cmdPort t.rspPort := by
  constructor
  · intro h
    exact congrArg (fun u : State => { u with cmdPort := t.cmdPort, rspPort := t.rspPort }) (show sameRegisters t s from h.symm)
  · intro h
    rw [h]
    rfl

theorem sameRegisters_atPorts (s : State) (cmd : List PortEvent) (rsp : List (List Byte)) :
    sameRegisters s (atPorts s cmd rsp) := rfl

theorem push_atPorts (c : Config) (s : State) (input : List Byte) (cmd : List PortEvent) (rsp : List (List Byte)) :
    push c (atPorts s cmd rsp) input = (atPorts (push c s input).1 cmd rsp, (push c s input).2) := by
  obtain ⟨-, -, -, -, htotal⟩ := push_frame c s input
  rw [atPorts, push_outer, atPorts, htotal]

theorem flush_atPorts {c : Config} {s t : State} {data : List Byte} (h : flush c s = .output t data) (cmd : List PortEvent)
    (rsp : List (List Byte)) : flush c (atPorts s cmd rsp) = .output (atPorts t cmd rsp) data := by
  obtain ⟨v, rfl⟩ := flush_state h
  rw [atPorts, flush_outer, h]
  rfl

theorem flush_error_atPorts {c : Config} {s : State} {status : Status} (h : flush c s = .error status)
    (cmd : List PortEvent) (rsp : List (List Byte)) : flush c (atPorts s cmd rsp) = .error status := by
  rw [atPorts, flush_outer, h]
  rfl

/-- Each row of `Answered` is the same row under other ports, with the same response packet. -/
theorem answered_atPorts {c : Config} {i : Instr} {s t : State} (h : Answered c s i t) :
    ∃ packet, t.rspPort = s.rspPort ++ [packet]
      ∧ ∀ cmd rsp, Answered c (atPorts s cmd rsp) i (atPorts t cmd (rsp ++ [packet])) := by
  cases h with
  | createUnadmitted a h => exact ⟨_, rfl, fun _ _ => .createUnadmitted a h⟩
  | createReserved a h ha => exact ⟨_, rfl, fun _ _ => .createReserved a h ha⟩
  | createFails a alg status h ha hf => exact ⟨_, rfl, fun _ _ => .createFails a alg status h ha hf⟩
  | createDone a alg h ha hf => exact ⟨_, rfl, fun _ _ => .createDone a alg h ha hf⟩
  | updateUnadmitted x h => exact ⟨_, rfl, fun _ _ => .updateUnadmitted x h⟩
  | updateOverflows x h hs ho => exact ⟨_, rfl, fun _ _ => .updateOverflows x h hs ho⟩
  | updateDone x h hs h64 h32 =>
    obtain ⟨-, hrsp, -, -, -⟩ := push_frame c s x
    refine ⟨_, by rw [State.respond_rspPort, State.addTotal_rspPort, hrsp], fun cmd rsp => ?_⟩
    have hrow : Answered c (atPorts s cmd rsp) (.update x) _ := .updateDone x h hs h64 h32
    rwa [push_atPorts] at hrow
  | finalUnadmitted h => exact ⟨_, rfl, fun _ _ => .finalUnadmitted h⟩
  | finalFails status h hs hf =>
    exact ⟨_, rfl, fun cmd rsp => .finalFails status h hs (flush_error_atPorts hf cmd rsp)⟩
  | finalDone u data h hs hf =>
    have hf' := flush_atPorts hf
    obtain ⟨v, rfl⟩ := flush_state hf
    exact ⟨_, rfl, fun cmd rsp => .finalDone (s := atPorts s cmd rsp) _ data h hs (hf' cmd rsp)⟩
  | resetUnadmitted iv h => exact ⟨_, rfl, fun _ _ => .resetUnadmitted iv h⟩
  | resetFails iv h hi => exact ⟨_, rfl, fun _ _ => .resetFails iv h hi⟩
  | resetDone iv h hi => exact ⟨_, rfl, fun _ _ => .resetDone iv h hi⟩
  | getOutLenUnadmitted n fin h => exact ⟨_, rfl, fun _ _ => .getOutLenUnadmitted n fin h⟩
  | getOutLenOverflows n fin h hs ho => exact ⟨_, rfl, fun _ _ => .getOutLenOverflows n fin h hs ho⟩
  | getOutLenDone n fin h hs h32 => exact ⟨_, rfl, fun _ _ => .getOutLenDone n fin h hs h32⟩
  | releaseUnadmitted h => exact ⟨_, rfl, fun _ _ => .releaseUnadmitted h⟩
  | releaseDone h => exact ⟨_, rfl, fun _ _ => .releaseDone h⟩

/-- R72 under any configuration. -/
theorem execWith_sameRegisters {c : Config} {i : Instr} {s t s' : State} (hst : sameRegisters s t)
    (hexec : execWith c i s = .next s') :
    ∃ t' packet, execWith c i t = .next t' ∧ sameRegisters s' t' ∧ s'.rspPort = s.rspPort ++ [packet]
      ∧ t'.rspPort = t.rspPort ++ [packet] := by
  obtain ⟨packet, hrsp, hrow⟩ := answered_atPorts (execWith_answered hexec)
  have hanswer := (hrow t.cmdPort t.rspPort).execWith
  rw [← (sameRegisters_iff s t).mp hst] at hanswer
  exact ⟨_, packet, hanswer, sameRegisters_atPorts s' _ _, hrsp, rfl⟩

/-- Settles O22. -/
theorem registersDetermineAnswers : Obligations.RegistersDetermineAnswers := by
  intro i s t s' hst hexec
  rw [exec_eq_execWith] at hexec ⊢
  exact execWith_sameRegisters hst hexec

/-! ### Sequences of commands -/

/-- One command issued: its next state and the reading of its response. -/
theorem issue_of_answer {c : Config} {i : Instr} {s t : State} {packet : List Byte} (h : execWith c i s = .next t)
    (hrsp : t.rspPort = s.rspPort ++ [packet]) : issue (execWith c) i s = some (t, readResponse packet) := by
  simp only [issue, h, hrsp, List.getLastD_concat]

theorem issue_eq_some {c : Config} {i : Instr} {s t : State} {r : Response} (h : issue (execWith c) i s = some (t, r)) :
    ∃ packet, execWith c i s = .next t ∧ t.rspPort = s.rspPort ++ [packet] ∧ r = readResponse packet := by
  unfold issue at h
  split at h
  · next u hu =>
    obtain ⟨packet, hrsp, -⟩ := answered_atPorts (execWith_answered hu)
    simp only [Option.some.injEq, Prod.mk.injEq] at h
    obtain ⟨rfl, rfl⟩ := h
    exact ⟨packet, hu, hrsp, by rw [hrsp, List.getLastD_concat]⟩
  · cases h
  · cases h

theorem issueAll_nil (run : Instr → State → Host.Outcome State Fault Refusal) (s : State) :
    issueAll run [] s = some (s, []) := rfl

theorem issueAll_cons_eq_some {run : Instr → State → Host.Outcome State Fault Refusal} {i : Instr} {rest : List Instr}
    {s u : State} {answers : List Response} :
    issueAll run (i :: rest) s = some (u, answers) ↔
      ∃ t r rs, issue run i s = some (t, r) ∧ issueAll run rest t = some (u, rs) ∧ answers = r :: rs := by
  rw [issueAll]
  cases hi : issue run i s with
  | none => simp
  | some p =>
    obtain ⟨t, r⟩ := p
    dsimp only
    cases hr : issueAll run rest t with
    | none => simp [hr]
    | some q =>
      obtain ⟨w, rs⟩ := q
      simp only [Option.some.injEq, Prod.mk.injEq]
      constructor
      · rintro ⟨rfl, rfl⟩
        exact ⟨t, r, rs, ⟨rfl, rfl⟩, hr, rfl⟩
      · rintro ⟨t', r', rs', ⟨rfl, rfl⟩, hrest, rfl⟩
        rw [hr] at hrest
        obtain ⟨rfl, rfl⟩ := by simpa using hrest
        exact ⟨rfl, rfl⟩

/-- Equal registers answer any sequence of commands alike: induction over the commands. -/
theorem issueAll_sameRegisters {c : Config} (cmds : List Instr) {s t u : State} {answers : List Response}
    (hst : sameRegisters s t) (h : issueAll (execWith c) cmds s = some (u, answers)) :
    ∃ v, issueAll (execWith c) cmds t = some (v, answers) ∧ sameRegisters u v := by
  induction cmds generalizing s t answers with
  | nil =>
    obtain ⟨rfl, rfl⟩ : s = u ∧ [] = answers := by simpa [issueAll_nil] using h
    exact ⟨t, rfl, hst⟩
  | cons i rest ih =>
    obtain ⟨s', r, rs, hissue, hrest, rfl⟩ := issueAll_cons_eq_some.mp h
    obtain ⟨packet, hexec, hrsp, rfl⟩ := issue_eq_some hissue
    obtain ⟨t', packet', hexec', hst', hrsp1, hrsp2⟩ := execWith_sameRegisters hst hexec
    obtain rfl : packet = packet' := by simpa using hrsp.symm.trans hrsp1
    obtain ⟨v, hv, huv⟩ := ih hst' hrest
    exact ⟨v, issueAll_cons_eq_some.mpr ⟨t', _, rs, issue_of_answer hexec' hrsp2, hv, rfl⟩, huv⟩

/-- `LoadIV` overwrites everything but the configuration, the key schedule and the ports (R135, R140). -/
theorem sameRegisters_loadIV (c : Config) {s t : State} (h : sameConfiguration s t) (v : List Byte) :
    sameRegisters (s.loadIV c v) (t.loadIV c v) := by
  obtain ⟨hdir, hpad, halg, hmode, hbe, hbs, hks⟩ := h
  simp only [sameRegisters, State.loadIV, hdir, hpad, halg, hmode, hbe, hbs, hks]

theorem exec_eq_engine : exec = execWith engine := funext fun i => funext fun s => exec_eq_execWith i s

/-- The operand check of RESET in the words of R140. -/
theorem resetIVOK_iff (s : State) (iv : Option (List Byte)) :
    resetIVOK s iv = true ↔
      (s.mode ≠ .ecb → s.mode ≠ .rc4Stream → ∃ v, iv = some v ∧ v.length = s.bs.toNat) := by
  have hlen : (iv.isSome && (optBytes iv).length == s.blockLen) = true ↔ ∃ v, iv = some v ∧ v.length = s.bs.toNat := by
    cases iv <;> simp [optBytes, State.blockLen]
  rw [resetIVOK, Bool.or_eq_true, hlen]
  cases s.mode <;> simp [needsIV]

/-- Settles O28: after the RESET the two sessions have the same registers. -/
theorem resetForgetsTheMessage : Obligations.ResetForgetsTheMessage := by
  intro later iv s t u answers hs ht hconf hiv h
  have hbs : t.bs = s.bs ∧ t.mode = s.mode := ⟨hconf.2.2.2.2.2.1.symm, hconf.2.2.2.1.symm⟩
  have hokS := (resetIVOK_iff s iv).mpr hiv
  have hokT : resetIVOK t iv = true := by
    rw [resetIVOK_iff, hbs.1, hbs.2]
    exact hiv
  have hrowS : execWith engine (.reset iv) s = _ := (Answered.resetDone iv hs hokS).execWith
  have hrowT : execWith engine (.reset iv) t = _ := (Answered.resetDone iv ht hokT).execWith
  rw [exec_eq_engine] at h ⊢
  obtain ⟨s', r, rs, hissue, hrest, rfl⟩ := issueAll_cons_eq_some.mp h
  rw [issue_of_answer hrowS rfl] at hissue
  obtain ⟨rfl, rfl⟩ := by simpa using hissue
  have hloaded : sameRegisters ((s.loadIV engine (optBytes iv)).respond .success [] 0)
      ((t.loadIV engine (optBytes iv)).respond .success [] 0) := sameRegisters_loadIV engine hconf _
  obtain ⟨v, hv, huv⟩ := issueAll_sameRegisters later hloaded hrest
  exact ⟨v, issueAll_cons_eq_some.mpr ⟨_, _, rs, issue_of_answer hrowT rfl, hv, rfl⟩, huv⟩

end Sys2Proof.Proofs
end

section
/-!
The session commands (spec file 40_session_commands.md): CREATE (R132 to R135), RESET (R140), RELEASE (R145) and GETOUTLEN
(R155 to R157).
-/

namespace Sys2Proof.Proofs

open Sys2Proof.Machine Sys2Proof.Claims

/-! ### CREATE -/

/-- The registers `LoadIV` leaves are those the statements write out (R135). -/
theorem loadIV_eq_loadedFrom (c : Config) (s : State) (v : List Byte) : s.loadIV c v = loadedFrom c s v := by
  unfold State.loadIV loadedFrom loadedIvt0 loadedIvt loadedSState
  cases s.mode <;> simp [needsIV]

theorem takesIV_iff (m : Mode) : (needsIV m && m != .xts) = true ↔ m ∈ [Mode.cbc, .cfb, .cfb8, .ctr, .ofb] := by
  cases m <;> decide

theorem padOK_iff (m : Mode) : padOK m = true ↔ m = .ecb ∨ m = .cbc := by
  cases m <;> decide

theorem operandFits_iff (o : Option (List Byte)) (n : Nat) :
    (o.isSome && (optBytes o).length == n) = true ↔ ∃ v, o = some v ∧ v.length = n := by
  cases o <;> simp [optBytes]

/-- One check of R133: the condition under which the statements say it fails. -/
theorem firstFailure_check {b : Bool} {P : Prop} [Decidable P] {st : Status} {rest : List (Bool × Status)}
    {verdict : Option Status} (hP : P ↔ b = false) (hrest : firstFailure rest = verdict) :
    firstFailure ((b, st) :: rest) = if P then some st else verdict := by
  cases b with
  | true => rw [if_neg (by simp [hP]), firstFailure, hrest]
  | false => rw [if_pos (by simp [hP]), firstFailure]

/-- The checks 4 to 11 of R133, one after the other, in the words of the statements. -/
theorem firstFailure_createChecks (c : Config) (a : CreateArgs) {alg : Alg} (ha : a.alg = .known alg) :
    firstFailure (createChecks c a alg) = createVerdict c a := by
  simp only [createVerdict, ha, createChecks]
  refine firstFailure_check ?_ (firstFailure_check ?_ (firstFailure_check ?_ (firstFailure_check ?_ (firstFailure_check ?_
    (firstFailure_check ?_ (firstFailure_check ?_ (firstFailure_check ?_ rfl)))))))
  · rw [Bool.and_eq_false_iff]
  · by_cases h1 : alg = .rc4 <;> by_cases h2 : a.mode = .rc4Stream <;> simp [h1, h2]
  · simp
  · rw [← Bool.not_eq_true, Bool.or_eq_true, padOK_iff, beq_iff_eq]
    cases a.pad <;> simp
  · rfl
  · rw [← Bool.not_eq_true, Bool.or_eq_true, Bool.not_eq_true', ← Bool.not_eq_true, takesIV_iff, operandFits_iff,
      not_or, not_not]
  · rw [← Bool.not_eq_true, Bool.or_eq_true, operandFits_iff, bne_iff_ne, not_or, not_not]
  · cases a.rounds <;> simp

/-- R133 in `EMPTY`: no failed check means the algorithm is known and every check holds. -/
theorem createVerdict_eq_none {c : Config} {a : CreateArgs} (h : createVerdict c a = none) :
    ∃ alg, a.alg = .known alg ∧ firstFailure (createChecks c a alg) = none := by
  cases ha : a.alg with
  | reserved =>
    rw [createVerdict, ha] at h
    cases h
  | known alg => exact ⟨alg, rfl, (firstFailure_createChecks c a ha).trans h⟩

/-- Settles O24: the failed check is the reserved algorithm or the first of the list. -/
theorem createFirstFailedCheck : Obligations.CreateFirstFailedCheck := by
  intro c a s status hempty hverdict
  cases ha : a.alg with
  | reserved =>
    simp only [createVerdict, ha] at hverdict
    obtain rfl := Option.some.inj hverdict
    exact (Answered.createReserved a hempty ha).execWith
  | known alg =>
    exact (Answered.createFails a alg status hempty ha ((firstFailure_createChecks c a ha).trans hverdict)).execWith

/-- Settles O25. -/
theorem createSucceedsOtherwise : Obligations.CreateSucceedsOtherwise := by
  intro c a s hempty hverdict
  obtain ⟨alg, ha, hchecks⟩ := createVerdict_eq_none hverdict
  exact ⟨_, (Answered.createDone a alg hempty ha hchecks).execWith, rfl, rfl⟩

/-- Settles O23: the hypotheses are the checks, and `configure` and `LoadIV` write what the statement lists. -/
theorem createCompletes : Obligations.CreateCompletes := by
  intro a alg s hempty ha halg hmode hrc4 hxts hpad hkey hiv htweak hrounds
  have hverdict : createVerdict engine a = none := by
    simp only [createVerdict, ha]
    rw [if_neg (by simp [halg, hmode]), if_neg (not_not.mpr hrc4), if_neg (fun h => h.2 (hxts h.1)),
      if_neg (fun h => (hpad h.1).elim h.2.1 h.2.2), if_neg (by simp [hkey]), if_neg (fun h => h.2 (hiv h.1)),
      if_neg (fun h => h.2 (htweak h.1)), if_neg (fun h => by simp [hrounds h.1] at h)]
  have hchecks := (firstFailure_createChecks engine a ha).trans hverdict
  rw [exec_eq_execWith]
  have hrow : execWith engine (.create a) s = _ := (Answered.createDone a alg hempty ha hchecks).execWith
  rw [hrow, loadIV_eq_loadedFrom]
  rfl

/-! ### RESET and RELEASE -/

/-- Settles O26. -/
theorem resetCompletes : Obligations.ResetCompletes := by
  intro iv s hlive hiv
  rw [exec_eq_execWith, ← loadIV_eq_loadedFrom]
  exact (Answered.resetDone iv hlive ((resetIVOK_iff s iv).mpr hiv)).execWith

/-- Settles O27. -/
theorem resetWithoutIVChangesNothing : Obligations.ResetWithoutIVChangesNothing := by
  intro iv s hlive hecb hrc4 hiv
  have hfails : resetIVOK s iv = false := by
    rw [← Bool.not_eq_true, resetIVOK_iff]
    exact fun h => hiv (h hecb hrc4)
  rw [exec_eq_execWith]
  exact (Answered.resetFails iv hlive hfails).execWith

/-- Settles O29: the reset values are those `State.reset` lists. -/
theorem releaseCompletes : Obligations.ReleaseCompletes := by
  intro s hlive
  rw [exec_eq_execWith]
  exact (Answered.releaseDone hlive).execWith

/-! ### GETOUTLEN -/

theorem mem_streamModes_iff (m : Mode) : m ∈ [Mode.cfb, .cfb8, .ctr, .ofb, .rc4Stream] ↔ m ∉ [Mode.ecb, .cbc, .xts] := by
  cases m <;> decide

/-- R156 as the model computes it and as the table says it. -/
theorem outLen_eq_outLenTable (s : State) (n : Nat) (fin : Bool) : outLen s n fin = outLenTable s n fin := by
  have hbs : s.blockLen = s.bs.toNat := rfl
  unfold outLen outLenTable
  rw [hbs]
  cases hm : modeClass s.mode with
  | stream m => rw [if_pos ((modeClass_eq_stream_iff s.mode).mp ⟨m, hm⟩)]
  | trueBlock m =>
    rw [if_neg (fun h => (mem_streamModes_iff s.mode).mp h ((modeClass_eq_trueBlock_iff s.mode).mp ⟨m, hm⟩))]
    cases s.pad <;> cases s.dir <;> cases fin <;> rfl

/-- Settles O30. -/
theorem getOutLenCompletes : Obligations.GetOutLenCompletes := by
  intro n fin s hlive hs hfits
  rw [← outLen_eq_outLenTable] at hfits ⊢
  rw [exec_eq_execWith]
  exact (Answered.getOutLenDone n fin hlive hs hfits).execWith

/-- Settles O31. -/
theorem getOutLenOverflow : Obligations.GetOutLenOverflow := by
  intro n fin s hlive hs hover
  rw [← outLen_eq_outLenTable] at hover
  rw [exec_eq_execWith]
  exact (Answered.getOutLenOverflows n fin hlive hs hover).execWith

/-- Responses that differ in status are different packets. -/
theorem responsePacket_inj {status status' : Status} {data data' : List Byte} {value value' : Nat}
    (h : responsePacket status data value = responsePacket status' data' value') : status = status' ∧ data = data' := by
  have hcode : ∀ st : Status, st.code < 2 ^ 32 := by intro st; cases st <;> decide
  have hhead : ∀ (st : Status) (d : List Byte) (v : Nat), leNat (cmdRead (responsePacket st d v) 0 4) = st.code := by
    intro st d v
    simp only [responsePacket, List.append_assoc]
    exact leNat_cmdRead_u32le (hcode st) _
  have htail : ∀ (st : Status) (d : List Byte) (v : Nat), (responsePacket st d v).drop 12 = d :=
    fun st d v => List.drop_left' (by simp)
  have hinj : ∀ st st' : Status, st.code = st'.code → st = st' := by
    intro st st'
    cases st <;> cases st' <;> decide
  exact ⟨hinj _ _ (by rw [← hhead status data value, h, hhead]), by rw [← htail status data value, h, htail]⟩

/-- The bound of R34 on `PLEN`, in every live state of a true block mode: where it is 0 the bound holds too. -/
theorem plen_lt_of_sound {s : State} (hs : s.sound = true) {m : BlockMode} (hm : modeClass s.mode = .trueBlock m) :
    s.plen.toNat < s.blockLen + s.hold := by
  have hpos := State.blockLen_pos hs hm
  obtain ⟨-, -, -, -, -, hbounded, -⟩ := (State.sound_iff s).mp hs
  unfold State.plenBounded at hbounded
  split at hbounded
  · rw [beq_iff_eq] at hbounded
    omega
  · exact of_decide_eq_true hbounded

/-- In a true block mode the bound exceeds `ADDLEN` by at most 31 (R157): the bytes pending, and the fill when encrypting. -/
theorem outLen_le {s : State} (hs : s.sound = true) {m : BlockMode} (hm : modeClass s.mode = .trueBlock m) (n : Nat)
    (fin : Bool) : outLen s n fin ≤ n + 31 := by
  have hplen := plen_lt_of_sound hs hm
  have h16 := ((State.sound_iff s).mp hs).2.2.1
  have hwhole : (s.plen.toNat + n) / s.blockLen * s.blockLen ≤ s.plen.toNat + n := Nat.div_mul_le_self _ _
  have hless : ((s.plen.toNat + n) / s.blockLen - 1) * s.blockLen ≤ (s.plen.toNat + n) / s.blockLen * s.blockLen :=
    Nat.mul_le_mul_right _ (Nat.sub_le _ _)
  have hmore := Nat.add_one_mul ((s.plen.toNat + n) / s.blockLen) s.blockLen
  have hbound := s.plen.isLt
  rw [State.hold_eq] at hplen
  simp only [outLen, hm]
  cases hdir : s.dir with
  | encrypt =>
    rw [if_neg (by simp [hdir])] at hplen
    cases s.pad <;> cases fin <;> dsimp only <;> omega
  | decrypt => cases s.pad <;> cases fin <;> dsimp only <;> omega

/-- Settles O32: a stream-equivalent mode answers `ADDLEN` itself, which fits, and the others exceed it by at most 31. -/
theorem outLenOverflowRange : Obligations.OutLenOverflowRange := by
  intro n fin s hexec
  rw [exec_eq_execWith] at hexec
  have hother : ∀ {status : Status} {value : Nat}, s.respond .overflow [] 0 = s.respond status [] value → status = .overflow := by
    intro status value h
    have hrsp := congrArg State.rspPort h
    rw [State.respond_rspPort, State.respond_rspPort, List.append_cancel_left_eq, List.singleton_inj] at hrsp
    exact (responsePacket_inj hrsp).1.symm
  rcases getOutLenCommand_cases n fin s with ⟨-, he⟩ | ⟨-, -, he⟩ | ⟨-, hs, hover, -⟩ | ⟨-, -, -, he⟩
  · rw [execWith, he] at hexec
    cases hother (Host.Outcome.next.inj hexec).symm
  · rw [execWith, he] at hexec
    cases hexec
  · cases hm : modeClass s.mode with
    | stream m =>
      have hn := n.isLt
      simp only [outLen, hm] at hover
      omega
    | trueBlock m =>
      have hle := outLen_le hs hm n.toNat fin
      exact ⟨(modeClass_eq_trueBlock_iff s.mode).mp ⟨m, hm⟩, by omega⟩
  · rw [execWith, he] at hexec
    cases hother (Host.Outcome.next.inj hexec).symm

end Sys2Proof.Proofs
end

section
/-!
The data path (spec files 41_data_commands.md, 42_mode_driver.md): what UPDATE's path keeps (R44), that it leaves nothing
behind the bytes the rules read (R34), and where `KPOS` and `PLEN` come to stand (R205, R175).
-/

namespace Sys2Proof.Proofs

open Sys2Proof.Machine Sys2Proof.Claims

/-! ### The mode of a class -/

/-- The mode a stream class stands for (R45). -/
def modeOfStream : StreamMode → Mode
  | .cfb => .cfb
  | .cfb8 => .cfb8
  | .ctr => .ctr
  | .ofb => .ofb
  | .rc4 => .rc4Stream

/-- The mode a true block class stands for (R45). -/
def modeOfBlock : BlockMode → Mode
  | .ecb => .ecb
  | .cbc => .cbc
  | .xts => .xts

theorem mode_eq_of_stream {x : Mode} {m : StreamMode} (h : modeClass x = .stream m) : x = modeOfStream m := by
  cases x <;> cases h <;> rfl

theorem mode_eq_of_trueBlock {x : Mode} {m : BlockMode} (h : modeClass x = .trueBlock m) : x = modeOfBlock m := by
  cases x <;> cases h <;> rfl

/-! ### Induction along an input -/

/-- What every `ByteUnit` keeps, `StreamPush` keeps. -/
theorem streamPush_induction (c : Config) (m : StreamMode) {P : State → Prop} (hunit : ∀ s x, P s → P (byteUnit c m s x).1)
    (xs : List Byte) {s : State} (h : P s) : P (streamPush c m s xs).1 := by
  induction xs generalizing s with
  | nil => exact h
  | cons x rest ih => exact ih (hunit s x h)

/-- What every `BlockUnit` on a whole block keeps, the loop keeps. -/
theorem blockLoop_induction (c : Config) (m : BlockMode) {P : State → Prop}
    (hunit : ∀ s b, b.length = s.blockLen → P s → P (blockUnit c m s b).1) (fuel : Nat) (buf : List Byte) {s : State}
    (h : P s) : P (blockLoop c m fuel s buf).1 := by
  induction fuel generalizing s buf with
  | zero => exact h
  | succ fuel ih =>
    by_cases hfull : s.blockLen + s.hold ≤ buf.length
    · rw [blockLoop_turn c m fuel hfull]
      exact ih _ (hunit s _ (List.length_take_of_le (by omega)) h)
    · rw [blockLoop_short c m _ (by omega)]
      exact h

/-! ### What a unit transform keeps -/

theorem byteUnit_kstr_kpos (c : Config) {m : StreamMode} (hm : m = .cfb8 ∨ m = .rc4) (s : State) (x : Byte) :
    (byteUnit c m s x).1.kstr = s.kstr ∧ (byteUnit c m s x).1.kpos = s.kpos := by
  rcases hm with rfl | rfl <;> exact ⟨rfl, rfl⟩

theorem byteUnit_sstate (c : Config) {m : StreamMode} (hm : m ≠ .rc4) (s : State) (x : Byte) :
    (byteUnit c m s x).1.sstate = s.sstate := by
  cases m with
  | cfb =>
    obtain ⟨k, h⟩ := cfbRefill_state c s
    show (cfbRefill c s).sstate = s.sstate
    rw [h]
  | cfb8 => rfl
  | ctr =>
    obtain ⟨i, k, h⟩ := ctrRefill_state c s
    show (ctrRefill c s).sstate = s.sstate
    rw [h]
  | ofb =>
    obtain ⟨i, k, h⟩ := ofbRefill_state c s
    show (ofbRefill c s).sstate = s.sstate
    rw [h]
  | rc4 => exact absurd rfl hm

theorem blockUnit_ecb_state (c : Config) (s : State) (b : List Byte) : (blockUnit c .ecb s b).1 = s := by
  simp only [blockUnit, ecbUnit]
  split <;> rfl

theorem blockLoop_ecb_state (c : Config) (fuel : Nat) (s : State) (buf : List Byte) : (blockLoop c .ecb fuel s buf).1 = s :=
  blockLoop_induction c .ecb (P := (· = s)) (fun t b _ h => (blockUnit_ecb_state c t b).trans h) fuel buf rfl

/-- R44: which registers UPDATE's path leaves, by the mode. -/
structure PathKeeps (s t : State) : Prop where
  pend : isStream s.mode = true → t.pend = s.pend ∧ t.plen = s.plen
  keystream : keepsKeystream s.mode = false → t.kstr = s.kstr ∧ t.kpos = s.kpos
  sstate : s.mode ≠ .rc4Stream → t.sstate = s.sstate
  chain : needsIV s.mode = false → t.ivt = s.ivt

theorem streamPush_keeps (c : Config) {m : StreamMode} {s : State} (hm : modeClass s.mode = .stream m) (xs : List Byte) :
    PathKeeps s (streamPush c m s xs).1 where
  pend _ := by
    obtain ⟨i, k, p, t, h⟩ := streamPush_state c m s xs
    rw [h]
    exact ⟨rfl, rfl⟩
  keystream hk := by
    have hm' : m = .cfb8 ∨ m = .rc4 := by
      rw [mode_eq_of_stream hm] at hk
      cases m <;> simp_all [modeOfStream, keepsKeystream]
    refine streamPush_induction c m (P := fun t => t.kstr = s.kstr ∧ t.kpos = s.kpos) (fun t x ht => ?_) xs ⟨rfl, rfl⟩
    obtain ⟨h1, h2⟩ := byteUnit_kstr_kpos c hm' t x
    exact ⟨h1.trans ht.1, h2.trans ht.2⟩
  sstate hmode := by
    have hm' : m ≠ .rc4 := by
      rintro rfl
      exact hmode (mode_eq_of_stream hm)
    exact streamPush_induction c m (P := fun t => t.sstate = s.sstate)
      (fun t x ht => (byteUnit_sstate c hm' t x).trans ht) xs rfl
  chain hiv := by
    obtain rfl : m = .rc4 := by
      rw [mode_eq_of_stream hm] at hiv
      cases m <;> simp_all [modeOfStream, needsIV]
    exact streamPush_induction c .rc4 (P := fun t => t.ivt = s.ivt) (fun t x ht => ht) xs rfl

theorem blockPush_keeps (c : Config) {m : BlockMode} {s : State} (hm : modeClass s.mode = .trueBlock m) (xs : List Byte) :
    PathKeeps s (blockPush c m s xs).1 where
  pend h := by simp [isStream, hm] at h
  keystream _ := by
    obtain ⟨v, p, n, h⟩ := blockPush_state c m s xs
    rw [h]
    exact ⟨rfl, rfl⟩
  sstate _ := by
    obtain ⟨v, p, n, h⟩ := blockPush_state c m s xs
    rw [h]
  chain hiv := by
    obtain rfl : m = .ecb := by
      rw [mode_eq_of_trueBlock hm] at hiv
      cases m <;> simp_all [modeOfBlock, needsIV]
    simp only [blockPush, State.setPend_ivt, blockLoop_ecb_state]

theorem push_keeps (c : Config) (s : State) (input : List Byte) : PathKeeps s (push c s input).1 := by
  unfold push
  cases hm : modeClass s.mode with
  | stream m => exact streamPush_keeps c hm input
  | trueBlock m => exact blockPush_keeps c hm input

/-! ### Nothing behind the bytes the rules read -/

/-- `IVT` and `KSTR` hold zeros behind `BS` bytes, and `KPOS` stands inside the block. -/
structure Tidy (s : State) : Prop where
  le16 : s.blockLen ≤ 16
  pos : s.mode ≠ .rc4Stream → 0 < s.blockLen
  ivt : s.ivt.toList.drop s.blockLen = zeros (16 - s.blockLen)
  kstr : s.kstr.toList.drop s.blockLen = zeros (16 - s.blockLen)
  kpos : keepsKeystream s.mode = true → s.kpos.toNat < s.blockLen

/-- R205's step of `KPOS`, inside its four bits. -/
theorem stepKpos_toNat {s : State} (h16 : s.blockLen ≤ 16) (hpos : 0 < s.blockLen) :
    s.stepKpos.kpos.toNat = (s.kpos.toNat + 1) % s.blockLen := by
  have hlt := Nat.mod_lt (s.kpos.toNat + 1) hpos
  rw [State.stepKpos_kpos, BitVec.toNat_ofNat]
  exact Nat.mod_eq_of_lt (by omega)

theorem fit_drop_of_length {k : Nat} {v : List Byte} (h : v.length = k) : (fit 16 v).toList.drop k = zeros (16 - k) := by
  subst h
  exact fit_toList_drop

namespace Tidy

variable {s : State}

theorem setIvt (h : Tidy s) {v : List Byte} (hv : v.length = s.blockLen) : Tidy (s.setIvt v) :=
  ⟨h.le16, h.pos, fit_drop_of_length hv, h.kstr, h.kpos⟩

theorem setKstr (h : Tidy s) {v : List Byte} (hv : v.length = s.blockLen) : Tidy (s.setKstr v) :=
  ⟨h.le16, h.pos, h.ivt, fit_drop_of_length hv, h.kpos⟩

theorem setIvtByte (h : Tidy s) (hk : keepsKeystream s.mode = true) (b : Byte) : Tidy (s.setIvtByte b) := by
  refine ⟨h.le16, h.pos, ?_, h.kstr, h.kpos⟩
  rw [State.setIvtByte_ivt, State.setIvtByte_blockLen, Vector.toList_set, List.drop_set_of_lt (h.kpos hk)]
  exact h.ivt

theorem stepKpos (h : Tidy s) (hpos : 0 < s.blockLen) : Tidy s.stepKpos := by
  refine ⟨h.le16, h.pos, h.ivt, h.kstr, fun _ => ?_⟩
  rw [stepKpos_toNat h.le16 hpos]
  exact Nat.mod_lt _ hpos

theorem ivtBytes_length (h : Tidy s) : s.ivtBytes.length = s.blockLen := State.ivtBytes_length h.le16

theorem enc_ivtBytes_length (h : Tidy s) (c : Config) : (s.enc c s.ivtBytes).length = s.blockLen := by
  rw [State.enc_length, h.ivtBytes_length]

/-- A tidy `IVT` is its first `BS` bytes. -/
theorem setIvt_ivtBytes_self (h : Tidy s) : s.setIvt s.ivtBytes = s := by
  have hfit : fit 16 s.ivtBytes = s.ivt := fit_take_of_tail_zero s.ivt h.le16 h.ivt
  rw [State.setIvt, hfit]

/-- A tidy `KSTR` is its first `BS` bytes. -/
theorem fit_kstrBytes (h : Tidy s) : fit 16 s.kstrBytes = s.kstr := fit_take_of_tail_zero s.kstr h.le16 h.kstr

theorem cfbRefill (h : Tidy s) (c : Config) : Tidy (Machine.cfbRefill c s) := by
  unfold Machine.cfbRefill
  split
  · exact h.setKstr (h.enc_ivtBytes_length c)
  · exact h

theorem ofbRefill (h : Tidy s) (c : Config) : Tidy (Machine.ofbRefill c s) := by
  unfold Machine.ofbRefill
  split
  · exact (h.setIvt (h.enc_ivtBytes_length c)).setKstr (h.enc_ivtBytes_length c)
  · exact h

theorem ctrRefill (h : Tidy s) (c : Config) : Tidy (Machine.ctrRefill c s) := by
  unfold Machine.ctrRefill
  split
  · exact (h.setKstr (h.enc_ivtBytes_length c)).setIvt ((ctrInc_length _ _).trans h.ivtBytes_length)
  · exact h

theorem byteUnit (h : Tidy s) (c : Config) {m : StreamMode} (hm : modeClass s.mode = .stream m) (x : Byte) :
    Tidy (Machine.byteUnit c m s x).1 := by
  cases m with
  | cfb =>
    have hmode : s.mode = .cfb := mode_eq_of_stream hm
    obtain ⟨k, hk⟩ := cfbRefill_state c s
    have hmode' : (Machine.cfbRefill c s).mode = .cfb := by rw [hk]; exact hmode
    have hr := h.cfbRefill c
    exact (hr.setIvtByte (by rw [hmode']; rfl) _).stepKpos (hr.pos (by simp [hmode']))
  | cfb8 =>
    have hpos := h.pos (by intro hs; rw [hs] at hm; cases hm)
    refine h.setIvt ?_
    rw [List.length_append, List.length_drop, h.ivtBytes_length, List.length_singleton]
    omega
  | ctr =>
    have hmode : s.mode = .ctr := mode_eq_of_stream hm
    obtain ⟨i, k, hk⟩ := ctrRefill_state c s
    have hmode' : (Machine.ctrRefill c s).mode = .ctr := by rw [hk]; exact hmode
    have hr := h.ctrRefill c
    exact hr.stepKpos (hr.pos (by simp [hmode']))
  | ofb =>
    have hmode : s.mode = .ofb := mode_eq_of_stream hm
    obtain ⟨i, k, hk⟩ := ofbRefill_state c s
    have hmode' : (Machine.ofbRefill c s).mode = .ofb := by rw [hk]; exact hmode
    have hr := h.ofbRefill c
    exact hr.stepKpos (hr.pos (by simp [hmode']))
  | rc4 => exact ⟨h.le16, h.pos, h.ivt, h.kstr, h.kpos⟩

theorem blockUnit (h : Tidy s) (c : Config) (m : BlockMode) {b : List Byte} (hb : b.length = s.blockLen) :
    Tidy (Machine.blockUnit c m s b).1 := by
  have hiv := h.ivtBytes_length
  cases m with
  | ecb => rwa [blockUnit_ecb_state]
  | cbc =>
    simp only [Machine.blockUnit, cbcUnit]
    split
    · exact h.setIvt (by simp [hb, hiv])
    · exact h.setIvt hb
  | xts => exact h.setIvt ((mulAlpha_length _).trans hiv)

theorem streamPush (h : Tidy s) (c : Config) {m : StreamMode} (hm : modeClass s.mode = .stream m) (xs : List Byte) :
    Tidy (Machine.streamPush c m s xs).1 := by
  refine (streamPush_induction c m (P := fun t => Tidy t ∧ modeClass t.mode = .stream m) ?_ xs ⟨h, hm⟩).1
  rintro t x ⟨ht, hmt⟩
  refine ⟨ht.byteUnit c hmt x, ?_⟩
  obtain ⟨i, k, p, w, hstate⟩ := byteUnit_state c m t x
  rwa [hstate]

theorem blockLoop (h : Tidy s) (c : Config) (m : BlockMode) (fuel : Nat) (buf : List Byte) :
    Tidy (Machine.blockLoop c m fuel s buf).1 :=
  blockLoop_induction c m (P := Tidy) (fun _ _ hb ht => ht.blockUnit c m hb) fuel buf h

theorem push (h : Tidy s) (c : Config) (input : List Byte) : Tidy (Machine.push c s input).1 := by
  unfold Machine.push
  split
  · next m hm => exact h.streamPush c hm input
  · next m hm =>
    have hloop := h.blockLoop c m (s.pendBytes ++ input).length (s.pendBytes ++ input)
    exact ⟨hloop.le16, hloop.pos, hloop.ivt, hloop.kstr, hloop.kpos⟩

end Tidy

/-! ### `KPOS` -/

theorem byteUnit_kpos (c : Config) {m : StreamMode} {s : State} (h16 : s.blockLen ≤ 16) (hpos : 0 < s.blockLen)
    (hk : keepsKeystream (modeOfStream m) = true) (x : Byte) :
    (byteUnit c m s x).1.kpos.toNat = (s.kpos.toNat + 1) % s.blockLen := by
  rw [← stepKpos_toNat h16 hpos]
  cases m with
  | cfb =>
    obtain ⟨k, hr⟩ := cfbRefill_state c s
    simp only [byteUnit, cfbUnit, hr]
    rfl
  | ctr =>
    obtain ⟨i, k, hr⟩ := ctrRefill_state c s
    simp only [byteUnit, ctrUnit, hr]
    rfl
  | ofb =>
    obtain ⟨i, k, hr⟩ := ofbRefill_state c s
    simp only [byteUnit, ofbUnit, hr]
    rfl
  | cfb8 | rc4 => cases hk

theorem byteUnit_blockLen (c : Config) (m : StreamMode) (s : State) (x : Byte) :
    (byteUnit c m s x).1.blockLen = s.blockLen := by
  obtain ⟨i, k, p, w, hstate⟩ := byteUnit_state c m s x
  rw [hstate]
  rfl

/-- R205 along an input. -/
theorem streamPush_kpos (c : Config) {m : StreamMode} {s : State} (h16 : s.blockLen ≤ 16) (hkpos : s.kpos.toNat < s.blockLen)
    (hk : keepsKeystream (modeOfStream m) = true) (xs : List Byte) :
    (streamPush c m s xs).1.kpos.toNat = (s.kpos.toNat + xs.length) % s.blockLen := by
  induction xs generalizing s with
  | nil => exact (Nat.mod_eq_of_lt hkpos).symm
  | cons x rest ih =>
    have hpos : 0 < s.blockLen := by omega
    have hunit := byteUnit_kpos c h16 hpos hk x
    have hblock := byteUnit_blockLen c m s x
    have hrest := ih (s := (byteUnit c m s x).1) (by rwa [hblock]) (by rw [hunit, hblock]; exact Nat.mod_lt _ hpos)
    rw [hunit, hblock, Nat.mod_add_mod] at hrest
    rw [streamPush, hrest, List.length_cons]
    congr 1
    omega

/-! ### `PLEN` -/

theorem setPend_plen {s : State} {v : List Byte} (h : v.length ≤ 31) : (s.setPend v).plen.toNat = v.length := by
  rw [State.setPend_plen, BitVec.toNat_ofNat]
  exact Nat.mod_eq_of_lt (by omega)

/-- What the loop leaves behind is what R174 keeps: the incomplete block, and one more when withholding. -/
theorem rest_length {k hold len : Nat} (hk : 0 < k) (hhold : hold = 0 ∨ hold = k) :
    len - (len - hold) / k * k = if hold = k then (if len < k then len else k + len % k) else len % k := by
  have hdiv := Nat.div_add_mod' (len - hold) k
  rcases hhold with rfl | rfl
  · rw [if_neg (by omega)]
    rw [Nat.sub_zero] at hdiv ⊢
    omega
  · rw [if_pos rfl]
    split
    · rw [Nat.div_eq_of_lt (by omega)]
      omega
    · next hge =>
      have hmod : (len - hold) % hold = len % hold := by rw [← Nat.mod_eq_sub_mod (by omega)]
      omega

theorem hold_le_blockLen (s : State) : s.hold = 0 ∨ s.hold = s.blockLen := by
  rw [State.hold_eq]
  split
  · exact .inr rfl
  · exact .inl rfl

/-- The bytes UPDATE's path leaves pending in a true block mode fit the register (R34). -/
theorem blockLoop_rest_le (c : Config) {m : BlockMode} {s : State} (hs : s.sound = true) (hm : modeClass s.mode = .trueBlock m)
    {fuel : Nat} {buf : List Byte} (hfuel : buf.length ≤ fuel) : (blockLoop c m fuel s buf).2.2.length ≤ 31 := by
  have h16 := ((State.sound_iff s).mp hs).2.2.1
  have hrest := blockLoop_rest_length c m (State.blockLen_pos hs hm) h16 fuel buf hfuel
  have hhold := hold_le_blockLen s
  omega

/-- R175 for `PLEN`. -/
theorem push_plen (c : Config) {s : State} (hs : s.sound = true) (input : List Byte) :
    (push c s input).1.plen.toNat = plenAfter s input.length := by
  unfold push plenAfter
  cases hm : modeClass s.mode with
  | stream m =>
    obtain ⟨i, k, p, t, h⟩ := streamPush_state c m s input
    have hzero : s.plen.toNat = 0 := by
      have hbounded := ((State.sound_iff s).mp hs).2.2.2.2.2.1
      simpa [State.plenBounded, isStream, hm] using hbounded
    rw [if_pos ((modeClass_eq_stream_iff s.mode).mp ⟨m, hm⟩), h]
    exact hzero
  | trueBlock m =>
    have hpos := State.blockLen_pos hs hm
    have h16 := ((State.sound_iff s).mp hs).2.2.1
    have hbs : s.bs.toNat = s.blockLen := rfl
    have hrest := (blockLoop_spec c m hpos h16 _ (s.pendBytes ++ input) (Nat.le_refl _)).2
    have hbuf : (s.pendBytes ++ input).length = s.plen.toNat + input.length := by
      rw [List.length_append, State.pendBytes_length]
    rw [if_neg (fun h => (mem_streamModes_iff s.mode).mp h ((modeClass_eq_trueBlock_iff s.mode).mp ⟨m, hm⟩)), hbs]
    simp only [blockPush]
    rw [setPend_plen (blockLoop_rest_le c hs hm (Nat.le_refl _)), hrest, List.length_drop, hbuf,
      rest_length hpos (hold_le_blockLen s), State.hold_eq]
    by_cases hw : s.dir = .decrypt ∧ s.pad = .pkcs7
    · simp only [if_pos hw, if_true]
    · simp only [if_neg hw, if_neg hpos.ne]

end Sys2Proof.Proofs
end

section
/-!
The invariants of R38 (spec file 10_state.md, with R34 and R43): they hold at reset, every row of `Answered` keeps them, and
they let no step stop (R250, R276).
-/

namespace Sys2Proof.Proofs

open Sys2Proof.Machine Sys2Proof.Claims

/-! ### The states that have them -/

/-- The ports are no part of the invariant. -/
theorem inv_of_sameRegisters {c : Config} {s t : State} (hst : sameRegisters s t) (h : Inv c s) : Inv c t := by
  rw [(sameRegisters_iff s t).mp hst]
  refine ⟨fun hempty => ?_, h.bs_latched, h.live_sound, h.tails, h.plen_total, h.sstate_zero, h.kstr_zero, h.no_chain⟩
  have hreset := h.empty_reset hempty
  show { s with cmdPort := t.cmdPort, rspPort := t.rspPort } = _
  rw [hreset]
  rfl

theorem sameRegisters_respond (s : State) (status : Status) (data : List Byte) (value : Nat) :
    sameRegisters s (s.respond status data value) := rfl

theorem inv_respond {c : Config} {s : State} (h : Inv c s) (status : Status) (data : List Byte) (value : Nat) :
    Inv c (s.respond status data value) := inv_of_sameRegisters (sameRegisters_respond s status data value) h

/-- The reset state meets the invariant under any configuration. -/
theorem inv_reset (c : Config) : Inv c State.reset where
  empty_reset _ := rfl
  bs_latched h := absurd rfl h
  live_sound h := absurd rfl h
  tails := ⟨rfl, rfl, rfl, rfl⟩
  plen_total h := by cases h
  sstate_zero _ := rfl
  kstr_zero _ := rfl
  no_chain _ := ⟨rfl, rfl⟩

/-- Settles O11. -/
theorem resetHasInvariant : Obligations.ResetHasInvariant := inv_reset engine

theorem zeroRegister_drop (n k : Nat) : (Vector.replicate n (0 : Byte)).toList.drop k = zeros (n - k) := by
  simp [zeros]

/-- In a live state the invariant makes `IVT`, `KSTR` and `KPOS` tidy. -/
theorem tidy_of_inv {c : Config} {s : State} (h : Inv c s) (hlive : s.st ≠ .empty) : Tidy s := by
  obtain ⟨hrc4, -, h16, -, -, -, hkpos⟩ := (State.sound_iff s).mp (h.live_sound hlive)
  obtain ⟨-, hivt, hkstr, -⟩ := h.tails
  refine ⟨h16, fun hmode => Nat.pos_of_ne_zero (mt hrc4.mpr hmode), hivt, hkstr, fun hk => ?_⟩
  rwa [if_pos hk] at hkpos

/-- The clauses of R38 that only the configuration decides. -/
structure ConfigSound (s : State) : Prop where
  rc4_bs : s.mode = .rc4Stream ↔ s.blockLen = 0
  rc4_alg : s.mode = .rc4Stream ↔ s.alg = .rc4
  le16 : s.blockLen ≤ 16
  pad : s.pad = .none ∨ padOK s.mode = true
  xts : s.mode = .xts → s.blockLen = 16

theorem configSound_of_sound {s : State} (h : s.sound = true) : ConfigSound s := by
  obtain ⟨h1, h2, h3, h4, h5, -, -⟩ := (State.sound_iff s).mp h
  exact ⟨h1, h2, h3, h4, h5⟩

theorem ConfigSound.pos {s : State} (h : ConfigSound s) (hmode : s.mode ≠ .rc4Stream) : 0 < s.blockLen :=
  Nat.pos_of_ne_zero (mt h.rc4_bs.mpr hmode)

theorem ConfigSound.of_same {s t : State} (h : ConfigSound s) (hst : sameConfiguration s t) : ConfigSound t := by
  obtain ⟨-, hpad, halg, hmode, -, hbs, -⟩ := hst
  obtain ⟨h1, h2, h3, h4, h5⟩ := h
  simp only [State.blockLen] at h1 h3 h5
  rw [hmode, hbs] at h1 h5
  rw [hmode, halg] at h2
  rw [hbs] at h3
  rw [hpad, hmode] at h4
  exact ⟨h1, h2, h3, h4, h5⟩

/-- R38 (b) to (g) from their parts. -/
theorem sound_of {s : State} (hconf : ConfigSound s) (hplen : s.plenBounded = true)
    (hkpos : if keepsKeystream s.mode then s.kpos.toNat < s.blockLen else s.kpos = 0) : s.sound = true :=
  (State.sound_iff s).mpr ⟨hconf.rc4_bs, hconf.rc4_alg, hconf.le16, hconf.pad, hconf.xts, hplen, hkpos⟩

theorem plenBounded_zero {s : State} (hconf : ConfigSound s) (hplen : s.plen = 0) : s.plenBounded = true := by
  unfold State.plenBounded
  rw [hplen]
  split
  · rfl
  · next h =>
    have hmode : s.mode ≠ .rc4Stream := by
      intro hm
      simp [hm, isStream, modeClass] at h
    have hpos := hconf.pos hmode
    exact decide_eq_true (show 0 < s.blockLen + s.hold by omega)

theorem sound_zero {s : State} (hconf : ConfigSound s) (hplen : s.plen = 0) (hkpos : s.kpos = 0) : s.sound = true := by
  refine sound_of hconf (plenBounded_zero hconf hplen) ?_
  split
  · next hk =>
    rw [hkpos]
    exact hconf.pos (by intro hm; rw [hm] at hk; cases hk)
  · exact hkpos

/-! ### Each kind of next state -/

/-- R264: the error entry of a live session. -/
theorem inv_errorEntry {c : Config} {s : State} (h : Inv c s) (hlive : s.st ≠ .empty) : Inv c s.errorEntry where
  empty_reset h := by cases h
  bs_latched _ := h.bs_latched hlive
  live_sound _ := sound_zero ((configSound_of_sound (h.live_sound hlive)).of_same ⟨rfl, rfl, rfl, rfl, rfl, rfl, rfl⟩) rfl rfl
  tails := ⟨zeroRegister_drop .., zeroRegister_drop .., zeroRegister_drop .., zeroRegister_drop ..⟩
  plen_total h := by cases h
  sstate_zero _ := rfl
  kstr_zero _ := rfl
  no_chain _ := ⟨rfl, rfl⟩

/-- R180: the end of a message, with the chain value the last block left. -/
theorem inv_finish {c : Config} {s : State} (h : Inv c s) (hlive : s.st ≠ .empty) {v : Vector Byte 16}
    (hv : v.toList.drop s.blockLen = zeros (16 - s.blockLen)) (hchain : needsIV s.mode = false → v = s.ivt) :
    Inv c ({ s with ivt := v } : State).finish where
  empty_reset h := by cases h
  bs_latched _ := h.bs_latched hlive
  live_sound _ := sound_zero ((configSound_of_sound (h.live_sound hlive)).of_same ⟨rfl, rfl, rfl, rfl, rfl, rfl, rfl⟩) rfl rfl
  tails := ⟨h.tails.1, hv, zeroRegister_drop .., zeroRegister_drop ..⟩
  plen_total h := by cases h
  sstate_zero := h.sstate_zero
  kstr_zero _ := rfl
  no_chain hiv := ⟨(h.no_chain hiv).1, (hchain hiv).trans (h.no_chain hiv).2⟩

/-- The operand of `LoadIV` is a block where the mode needs one (R133, R140). -/
def loadable (s : State) (v : List Byte) : Prop := needsIV s.mode = true → v.length = s.blockLen

theorem loadedIvt0_tail {s : State} {v : List Byte} (h : loadable s v) :
    (loadedIvt0 s.mode v).toList.drop s.blockLen = zeros (16 - s.blockLen) := by
  unfold loadedIvt0
  split
  · next hiv => exact fit_drop_of_length (h hiv)
  · exact zeroRegister_drop ..

theorem loadedIvt_tail (c : Config) {s : State} {v : List Byte} (hconf : ConfigSound s) (h : loadable s v) :
    (loadedIvt c s.mode s.alg s.keySched v).toList.drop s.blockLen = zeros (16 - s.blockLen) := by
  cases hm : s.mode with
  | ecb | rc4Stream => exact zeroRegister_drop ..
  | xts =>
    rw [hconf.xts hm, List.drop_eq_nil_of_le (by simp)]
    rfl
  | cbc | cfb | cfb8 | ctr | ofb => exact fit_drop_of_length (h (by rw [hm]; rfl))

/-- R135: `LoadIV` of a sound configuration. -/
theorem inv_loadIV {c : Config} {s : State} {v : List Byte} (hconf : ConfigSound s) (hbs : s.blockLen = c.blockSize s.alg)
    (hv : loadable s v) : Inv c (s.loadIV c v) where
  empty_reset h := by cases h
  bs_latched _ := hbs
  live_sound _ := sound_zero (hconf.of_same ⟨rfl, rfl, rfl, rfl, rfl, rfl, rfl⟩) rfl rfl
  tails := ⟨loadedIvt0_tail (s := s) hv, loadedIvt_tail (s := s) c hconf hv, zeroRegister_drop .., zeroRegister_drop ..⟩
  plen_total _ hblock := by
    have hpos : 0 < s.blockLen := hconf.pos (by intro hm; rw [State.loadIV_mode, hm] at hblock; cases hblock)
    have hcond : ¬((s.withholding && decide (s.blockLen ≤ 0)) = true) := by simp; omega
    exact ((if_neg hcond).trans (Nat.zero_mod _)).symm
  sstate_zero hm := if_neg hm
  kstr_zero _ := rfl
  no_chain hiv := by
    rw [State.loadIV_mode] at hiv
    rw [State.loadIV_ivt0, State.loadIV_ivt]
    cases hm : s.mode <;> simp_all [needsIV, loadedIvt0, loadedIvt]

/-- R133: with every check met the configuration registers meet R38. -/
theorem configSound_configure {c : Config} (hc : c.Legal) {a : CreateArgs} {alg : Alg} {s : State}
    (hchecks : firstFailure (createChecks c a alg) = none) :
    ConfigSound (s.configure c a alg) ∧ (s.configure c a alg).blockLen = c.blockSize alg := by
  have hle := hc.block_le alg
  have hbs : (s.configure c a alg).blockLen = c.blockSize alg := by
    rw [State.blockLen, State.configure_bs, BitVec.toNat_ofNat]
    exact Nat.mod_eq_of_lt (by omega)
  have hall := firstFailure_none.mp hchecks
  simp only [createChecks, List.forall_mem_cons] at hall
  obtain ⟨-, hrc4, hxts, hpad, -, -, -, -⟩ := hall
  have halg : alg = .rc4 ↔ a.mode = .rc4Stream := by
    by_cases h1 : alg = .rc4 <;> by_cases h2 : a.mode = .rc4Stream <;> simp_all
  have hzero : c.blockSize alg = 0 ↔ alg = .rc4 := by
    constructor
    · intro h0
      by_contra hne
      have := hc.block_pos alg hne
      omega
    · rintro rfl
      exact hc.rc4_zero
  refine ⟨⟨?_, halg.symm, by rw [hbs]; exact hle, by simpa using hpad, fun hm => ?_⟩, hbs⟩
  · rw [hbs, hzero]
    exact halg.symm
  · rw [hbs]
    simpa [show a.mode = .xts from hm] using hxts

/-- R133 checks 9 and 10: the operand `LoadIV` takes is a block. -/
theorem loadable_createIV {c : Config} {a : CreateArgs} {alg : Alg} {s : State}
    (hbs : (s.configure c a alg).blockLen = c.blockSize alg) (hchecks : firstFailure (createChecks c a alg) = none) :
    loadable (s.configure c a alg) (createIV a) := by
  have hall := firstFailure_none.mp hchecks
  simp only [createChecks, List.forall_mem_cons] at hall
  obtain ⟨-, -, hxts, -, -, hiv, htweak, -⟩ := hall
  intro hneeds
  rw [State.configure_mode] at hneeds
  rw [hbs, createIV]
  by_cases hm : a.mode = .xts
  · have hsize : c.blockSize alg = 16 := by simpa [hm] using hxts
    have hlen : a.tweak.isSome = true ∧ (optBytes a.tweak).length = 16 := by simpa [hm] using htweak
    rw [if_pos hm, hsize, hlen.2]
  · have hlen : a.iv.isSome = true ∧ (optBytes a.iv).length = c.blockSize alg := by simpa [hm, hneeds] using hiv
    rw [if_neg hm, hlen.2]

/-- R140: what RESET accepts is a block. -/
theorem loadable_resetIV {s : State} {iv : Option (List Byte)} (h : resetIVOK s iv = true) : loadable s (optBytes iv) := by
  intro hneeds
  have hlen : iv.isSome = true ∧ (optBytes iv).length = s.blockLen := by simpa [resetIVOK, hneeds] using h
  exact hlen.2

/-! ### UPDATE -/

theorem isStream_eq_false_iff (m : Mode) : isStream m = false ↔ m ∉ [Mode.cfb, .cfb8, .ctr, .ofb, .rc4Stream] := by
  cases m <;> decide

theorem addTotal_toNat {s : State} {n : Nat} (h : s.total.toNat + n ≤ 2 ^ 64 - 1) :
    (s.addTotal n).total.toNat = s.total.toNat + n := by
  rw [State.addTotal_total, BitVec.toNat_ofNat]
  exact Nat.mod_eq_of_lt (by omega)

/-- R175 and R174 agree: if `PLEN` is what `total` bytes leave, then what `n` more leave is what `total + n` leave. -/
theorem plen_follows_total {k plen total n : Nat} {withholding : Bool}
    (h : plen = if withholding && decide (k ≤ total) then k + total % k else total % k) :
    (if withholding = true then (if plen + n < k then plen + n else k + (plen + n) % k) else (plen + n) % k)
      = if withholding && decide (k ≤ total + n) then k + (total + n) % k else (total + n) % k := by
  cases withholding with
  | false =>
    simp only [Bool.false_and, if_false, Bool.false_eq_true] at h ⊢
    rw [h, Nat.mod_add_mod]
  | true =>
    simp only [Bool.true_and, decide_eq_true_eq, if_true] at h ⊢
    by_cases hlt : total < k
    · rw [if_neg (by omega), Nat.mod_eq_of_lt hlt] at h
      subst h
      split
      · next hshort => rw [if_neg (by omega), Nat.mod_eq_of_lt hshort]
      · rw [if_pos (by omega)]
    · rw [if_pos (by omega)] at h
      subst h
      rw [if_neg (by omega), if_pos (by omega), Nat.add_assoc, Nat.add_mod_left, Nat.mod_add_mod]

theorem withholding_iff (s : State) : s.withholding = true ↔ s.dir = .decrypt ∧ s.pad = .pkcs7 := by
  simp [State.withholding]

/-- `PLEN` keeps following `TOTAL` through UPDATE. -/
theorem push_plenTracksTotal (c : Config) {s : State} (hs : s.sound = true)
    (hblock : isStream s.mode = false) (h : s.plenTracksTotal) {input : List Byte}
    (h64 : s.total.toNat + input.length ≤ 2 ^ 64 - 1) : ((push c s input).1.addTotal input.length).plenTracksTotal := by
  have hplen := push_plen c hs input
  obtain ⟨i, k, p, t, q, n, hpush⟩ := push_state c s input
  have htotal : ((push c s input).1.addTotal input.length).total.toNat = s.total.toNat + input.length := by
    rw [← addTotal_toNat h64, hpush]
    rfl
  have hwith : ((push c s input).1.addTotal input.length).withholding = s.withholding := by rw [hpush]; rfl
  have hlen : ((push c s input).1.addTotal input.length).blockLen = s.blockLen := by rw [hpush]; rfl
  have hbs : s.bs.toNat = s.blockLen := rfl
  unfold State.plenTracksTotal
  rw [htotal, hwith, hlen, State.addTotal_plen, hplen, plenAfter, if_neg ((isStream_eq_false_iff s.mode).mp hblock), hbs,
    ← plen_follows_total h]
  simp only [withholding_iff]

/-- `PEND` holds zeros behind `PLEN` bytes after UPDATE. -/
theorem push_pend_tail (c : Config) {s : State} (hs : s.sound = true)
    (h : s.pend.toList.drop s.plen.toNat = zeros (31 - s.plen.toNat)) (input : List Byte) :
    (push c s input).1.pend.toList.drop (push c s input).1.plen.toNat = zeros (31 - (push c s input).1.plen.toNat) := by
  unfold push
  cases hm : modeClass s.mode with
  | stream m =>
    obtain ⟨i, k, p, t, hpush⟩ := streamPush_state c m s input
    rw [hpush]
    exact h
  | trueBlock m =>
    have hrest := blockLoop_rest_le c hs hm (Nat.le_refl (s.pendBytes ++ input).length)
    simp only [blockPush]
    rw [setPend_plen hrest]
    exact fit_toList_drop

/-- R170: UPDATE's path keeps R38. -/
theorem push_sound (c : Config) {s : State} (hs : s.sound = true) (hactive : s.st = .active) (htidy : Tidy s)
    (input : List Byte) : (push c s input).1.sound = true := by
  have hconf := (configSound_of_sound hs).of_same (push_frame c s input).1
  have hmode : (push c s input).1.mode = s.mode := push_mode c s input
  have hkeeps := push_keeps c s input
  have hplen := push_plen c hs input
  obtain ⟨-, -, -, -, -, -, hkpos⟩ := (State.sound_iff s).mp hs
  refine sound_of hconf ?_ ?_
  · cases hm : modeClass s.mode with
    | stream m =>
      refine plenBounded_zero hconf (BitVec.eq_of_toNat_eq ?_)
      rw [hplen, plenAfter, if_pos ((modeClass_eq_stream_iff s.mode).mp ⟨m, hm⟩)]
      rfl
    | trueBlock m =>
      have hpos := State.blockLen_pos hs hm
      have hrest := blockLoop_rest_length c m hpos (configSound_of_sound hs).le16 (s.pendBytes ++ input).length
        (s.pendBytes ++ input) (Nat.le_refl _)
      have hle := blockLoop_rest_le c hs hm (Nat.le_refl (s.pendBytes ++ input).length)
      simp only [push, hm, blockPush, State.plenBounded]
      rw [State.setPend_blockLen, State.setPend_hold, blockLoop_blockLen, blockLoop_hold, setPend_plen hle]
      obtain ⟨v, hloop⟩ := blockLoop_state c m (s.pendBytes ++ input).length s (s.pendBytes ++ input)
      have hcond : ¬((isStream s.mode || s.st == .finalized || s.st == .errored) = true) := by simp [isStream, hm, hactive]
      rw [State.setPend_mode, State.setPend_st, hloop, if_neg hcond]
      exact decide_eq_true hrest
  · rw [hmode]
    split
    · next hk => exact (htidy.push c input).kpos (by rw [hmode]; exact hk)
    · next hk =>
      rw [(hkeeps.keystream (by simpa using hk)).2]
      rwa [if_neg hk] at hkpos

/-- R170 to R176: UPDATE keeps the invariant. -/
theorem inv_update {c : Config} {s : State} (h : Inv c s) (hactive : s.st = .active) {input : List Byte}
    (h64 : s.total.toNat + input.length ≤ 2 ^ 64 - 1) : Inv c ((push c s input).1.addTotal input.length) := by
  have hlive : s.st ≠ .empty := by rw [hactive]; decide
  have hs := h.live_sound hlive
  have htidy := tidy_of_inv h hlive
  obtain ⟨⟨-, -, halg, -, -, hbs, -⟩, -, -, hivt0, -⟩ := push_frame c s input
  have hst : (push c s input).1.st = .active := (push_st c s input).trans hactive
  have hlen : (push c s input).1.blockLen = s.blockLen := congrArg BitVec.toNat hbs.symm
  have hmode := push_mode c s input
  have hkeeps := push_keeps c s input
  have htidy' := htidy.push c input
  refine ⟨?_, ?_, ?_, ?_, ?_, ?_, ?_, ?_⟩
  · intro hempty
    rw [State.addTotal_st, hst] at hempty
    cases hempty
  · intro _
    rw [State.addTotal_blockLen, State.addTotal_alg, hlen, ← halg]
    exact h.bs_latched hlive
  · exact fun _ => push_sound c hs hactive htidy input
  · refine ⟨?_, htidy'.ivt, htidy'.kstr, push_pend_tail c hs h.tails.2.2.2 input⟩
    rw [State.addTotal_ivt0, State.addTotal_blockLen, hivt0, hlen]
    exact h.tails.1
  · intro _ hblock
    rw [State.addTotal_mode, hmode] at hblock
    exact push_plenTracksTotal c hs hblock (h.plen_total hactive hblock) h64
  · intro hm
    rw [State.addTotal_mode, hmode] at hm
    exact (hkeeps.sstate hm).trans (h.sstate_zero hm)
  · intro hm
    rw [State.addTotal_mode, hmode] at hm
    exact (hkeeps.keystream hm).1.trans (h.kstr_zero hm)
  · intro hm
    rw [State.addTotal_mode, hmode] at hm
    exact ⟨hivt0.trans (h.no_chain hm).1, (hkeeps.chain hm).trans (h.no_chain hm).2⟩

/-! ### FINAL -/

/-- What `flush` hands on differs in `IVT` only, which stays tidy and, without a chain, stays as it was. -/
theorem flush_chain {c : Config} {s t : State} {data : List Byte} (hs : s.sound = true) (htidy : Tidy s)
    (h : flush c s = .output t data) :
    t = { s with ivt := t.ivt } ∧ t.ivt.toList.drop s.blockLen = zeros (16 - s.blockLen)
      ∧ (needsIV s.mode = false → t.ivt = s.ivt) := by
  have hself : s.ivt.toList.drop s.blockLen = zeros (16 - s.blockLen) := htidy.ivt
  have hunit : ∀ {m : BlockMode} {b : List Byte}, modeClass s.mode = .trueBlock m → b.length = s.blockLen →
      (blockUnit c m s b).1 = { s with ivt := (blockUnit c m s b).1.ivt }
        ∧ (blockUnit c m s b).1.ivt.toList.drop s.blockLen = zeros (16 - s.blockLen)
        ∧ (needsIV s.mode = false → (blockUnit c m s b).1.ivt = s.ivt) := by
    intro m b hm hb
    have htidy' := htidy.blockUnit c m hb
    obtain ⟨v, hv⟩ := blockUnit_state c m s b
    refine ⟨by rw [hv], ?_, fun hiv => ?_⟩
    · have htail := htidy'.ivt
      rwa [blockUnit_blockLen] at htail
    · rw [mode_eq_of_trueBlock hm] at hiv
      cases m with
      | ecb => rw [blockUnit_ecb_state]
      | cbc | xts => cases hiv
  unfold flush at h
  split at h
  · cases h
    exact ⟨rfl, hself, fun _ => rfl⟩
  · next m hm =>
    have hplen := plen_lt_of_sound hs hm
    split at h
    · next hpad hdir =>
      rw [State.hold_eq, if_neg (by simp [hdir])] at hplen
      cases h
      exact hunit hm (pkcs7Pad_length (by rw [State.pendBytes_length]; omega))
    · unfold finalDecPad at h
      split at h
      · cases h
      · next hfull =>
        dsimp only at h
        split at h
        · cases h
        · cases h
          exact hunit hm (by rw [State.pendBytes_length]; omega)
    · unfold finalNoPad at h
      split at h
      · cases h
      · cases h
        exact ⟨rfl, hself, fun _ => rfl⟩

/-! ### The step -/

/-- Every row of `Answered` keeps the invariant. -/
theorem answered_inv {c : Config} (hc : c.Legal) {i : Instr} {s t : State} (h : Inv c s) (hrow : Answered c s i t) :
    Inv c t := by
  cases hrow with
  | createDone a alg _ _ hchecks =>
    obtain ⟨hconf, hbs⟩ := configSound_configure (s := s) hc hchecks
    exact inv_respond (inv_loadIV hconf hbs (loadable_createIV hbs hchecks)) _ _ _
  | updateOverflows x hactive => exact inv_respond (inv_errorEntry h (by rw [hactive]; decide)) _ _ _
  | updateDone x hactive _ h64 => exact inv_respond (inv_update h hactive h64) _ _ _
  | finalFails status hactive => exact inv_respond (inv_errorEntry h (by rw [hactive]; decide)) _ _ _
  | finalDone u data hactive hs hf =>
    have hlive : s.st ≠ .empty := by rw [hactive]; decide
    obtain ⟨hu, htail, hchain⟩ := flush_chain hs (tidy_of_inv h hlive) hf
    rw [hu]
    exact inv_respond (inv_finish h hlive htail hchain) _ _ _
  | resetDone iv hlive hiv =>
    exact inv_respond (inv_loadIV (configSound_of_sound (h.live_sound hlive)) (h.bs_latched hlive) (loadable_resetIV hiv)) _ _ _
  | releaseDone =>
    exact inv_respond (inv_of_sameRegisters (sameRegisters_atPorts State.reset s.cmdPort s.rspPort) (inv_reset c)) _ _ _
  | createUnadmitted | createReserved | createFails | updateUnadmitted | finalUnadmitted | resetUnadmitted | resetFails
  | getOutLenUnadmitted | getOutLenOverflows | getOutLenDone | releaseUnadmitted => exact inv_respond h _ _ _

/-- Settles O13: each kind of event of the port keeps the invariant. -/
theorem legalTableKeepsInvariant : Obligations.LegalTableKeepsInvariant := by
  intro c s t hc h hstep
  cases hport : s.cmdPort with
  | nil =>
    rw [serve_idle hport] at hstep
    cases hstep
    exact h
  | cons event later =>
    cases event with
    | hardwareReset =>
      rw [serve_hardwareReset hport] at hstep
      cases hstep
      exact inv_of_sameRegisters (sameRegisters_atPorts State.reset later []) (inv_reset c)
    | packet pkt =>
      have hmoved : Inv c { s with cmdPort := later } := inv_of_sameRegisters (sameRegisters_atPorts s later s.rspPort) h
      rw [serve_packet hport] at hstep
      by_cases hdecode : ∃ i, decode pkt = .instr i
      · obtain ⟨i, hi⟩ := hdecode
        rw [servePacket_of_instr hi] at hstep
        exact answered_inv hc hmoved (execWith_answered hstep)
      · rw [servePacket_of_malformed (fun i hi => hdecode ⟨i, hi⟩)] at hstep
        cases hstep
        exact inv_respond hmoved _ _ _

/-- Settles O15. -/
theorem defaultTableLegal : Obligations.DefaultTableLegal where
  rc4_zero := rfl
  block_pos a h := by
    cases a with
    | rc4 => exact absurd rfl h
    | aes | des | tripleDes | cast | rc2 | blowfish => decide
  block_le a := by cases a <;> decide

/-- Settles O12: the default table is one of those R70 allows. -/
theorem stepKeepsInvariant : Obligations.StepKeepsInvariant := by
  intro s t h hstep
  rw [step_eq_serve] at hstep
  exact legalTableKeepsInvariant engine s t defaultTableLegal h hstep

/-! ### Stops -/

/-- Only registers that break R38 stop a command. -/
theorem execWith_goesOn {c : Config} {s : State} (h : s.st ≠ .empty → s.sound = true) (i : Instr) :
    GoesOn (execWith c i s) := by
  have hactive : s.st = .active → s.sound ≠ false := fun ha => by rw [h (by rw [ha]; decide)]; decide
  cases i with
  | create a =>
    rcases createCommand_cases c a s with ⟨-, e⟩ | ⟨-, -, e⟩ | ⟨_, _, -, -, -, e⟩ | ⟨_, -, -, -, e⟩ <;> exact ⟨_, e⟩
  | update x =>
    rcases updateCommand_cases c x s with ⟨-, e⟩ | ⟨ha, hs, -⟩ | ⟨-, -, -, e⟩ | ⟨-, -, -, -, e⟩
    · exact ⟨_, e⟩
    · exact absurd hs (hactive ha)
    · exact ⟨_, e⟩
    · exact ⟨_, e⟩
  | final =>
    rcases finalCommand_cases c s with ⟨-, e⟩ | ⟨ha, hs, -⟩ | ⟨_, -, -, -, e⟩ | ⟨_, _, -, -, -, e⟩
    · exact ⟨_, e⟩
    · exact absurd hs (hactive ha)
    · exact ⟨_, e⟩
    · exact ⟨_, e⟩
  | reset iv => rcases resetCommand_cases c iv s with ⟨-, e⟩ | ⟨-, -, e⟩ | ⟨-, -, e⟩ <;> exact ⟨_, e⟩
  | getOutLen n fin =>
    rcases getOutLenCommand_cases n fin s with ⟨-, e⟩ | ⟨hl, hs, -⟩ | ⟨-, -, -, e⟩ | ⟨-, -, -, e⟩
    · exact ⟨_, e⟩
    · exact absurd hs (by rw [h hl]; decide)
    · exact ⟨_, e⟩
    · exact ⟨_, e⟩
  | release => rcases releaseCommand_cases s with ⟨-, e⟩ | ⟨-, e⟩ <;> exact ⟨_, e⟩

/-- Settles O14. -/
theorem stepGoesOn : Obligations.StepGoesOn := by
  intro s h
  rw [step_eq_serve]
  cases hport : s.cmdPort with
  | nil => exact ⟨_, serve_idle hport⟩
  | cons event later =>
    cases event with
    | hardwareReset => exact ⟨_, serve_hardwareReset hport⟩
    | packet pkt =>
      rw [serve_packet hport]
      by_cases hdecode : ∃ i, decode pkt = .instr i
      · obtain ⟨i, hi⟩ := hdecode
        rw [servePacket_of_instr hi]
        exact execWith_goesOn (s := { s with cmdPort := later }) h.live_sound i
      · rw [servePacket_of_malformed (fun i hi => hdecode ⟨i, hi⟩)]
        exact ⟨_, rfl⟩

/-- Settles O16: each of the three commands tests R38 right after its admission. -/
theorem unsoundRegistersStop : Obligations.UnsoundRegistersStop := by
  rintro s i hs (⟨input, rfl⟩ | rfl | ⟨n, fin, rfl⟩) hadmitted
  · exact updateCommand_unsound engine input hadmitted hs
  · rcases finalCommand_cases engine s with ⟨ha, -⟩ | ⟨-, -, e⟩ | ⟨_, -, hsound, -⟩ | ⟨_, _, -, hsound, -⟩
    · exact absurd hadmitted ha
    · exact e
    · rw [hs] at hsound; cases hsound
    · rw [hs] at hsound; cases hsound
  · rcases getOutLenCommand_cases n fin s with ⟨he, -⟩ | ⟨-, -, e⟩ | ⟨-, hsound, -⟩ | ⟨-, hsound, -⟩
    · exact absurd he hadmitted
    · exact e
    · rw [hs] at hsound; cases hsound
    · rw [hs] at hsound; cases hsound

end Sys2Proof.Proofs
end

section
/-!
UPDATE (spec file 41_data_commands.md, R170 to R176): how it ends, what it leaves unchanged (R44), and that an input may come
in pieces (R186).
-/

namespace Sys2Proof.Proofs

open Sys2Proof.Machine Sys2Proof.Claims

/-! ### How it ends -/

/-- R170: an admitted UPDATE without overflow. -/
theorem execWith_update_ok (c : Config) {input : List Byte} {s : State} (hactive : s.st = .active) (hs : s.sound = true)
    (h64 : s.total.toNat + input.length ≤ 2 ^ 64 - 1) (h32 : (push c s input).2.length ≤ 2 ^ 32 - 1) :
    execWith c (.update input) s
      = .next (((push c s input).1.addTotal input.length).respond .success (push c s input).2 0) :=
  (Answered.updateDone input hactive hs h64 (by rwa [← push_length c hs])).execWith

theorem update_rspPort (c : Config) (s : State) (input : List Byte) :
    (((push c s input).1.addTotal input.length).respond .success (push c s input).2 0).rspPort
      = s.rspPort ++ [responsePacket .success (push c s input).2 0] := by
  rw [State.respond_rspPort, State.addTotal_rspPort, (push_frame c s input).2.1]

/-- An UPDATE that leaves the session `ACTIVE` has processed its input. -/
theorem update_of_active {c : Config} {input : List Byte} {s t : State} (h : execWith c (.update input) s = .next t)
    (ht : t.st = .active) :
    s.st = .active ∧ s.sound = true ∧ s.total.toNat + input.length ≤ 2 ^ 64 - 1
      ∧ t = ((push c s input).1.addTotal input.length).respond .success (push c s input).2 0 := by
  cases execWith_answered h with
  | updateUnadmitted _ hs => exact absurd ht hs
  | updateOverflows => cases ht
  | updateDone _ hactive hs h64 => exact ⟨hactive, hs, h64, rfl⟩

/-- Settles O33. -/
theorem updateCompletes : Obligations.UpdateCompletes := by
  intro input s hactive hs h64 h32
  rw [← outLen_eq_outLenTable, ← push_length engine hs] at h32 ⊢
  rw [exec_eq_execWith]
  refine ⟨_, _, execWith_update_ok engine hactive hs h64 h32, update_rspPort engine s input, rfl, push_plen engine hs input, ?_,
    (push_st engine s input).trans hactive⟩
  have htotal := (push_frame engine s input).2.2.2.2
  have hadd := addTotal_toNat (s := (push engine s input).1) (n := input.length) (by rw [htotal]; exact h64)
  rw [htotal] at hadd
  exact hadd

/-- Settles O34. -/
theorem updateOverflowEntersErrored : Obligations.UpdateOverflowEntersErrored := by
  intro input s hactive hs hover
  rw [← outLen_eq_outLenTable] at hover
  rw [exec_eq_execWith, ← errorEntry_eq_erroredFrom]
  exact (Answered.updateOverflows input hactive hs hover).execWith

/-- Settles O46: both numbers are the length of what UPDATE's path emits. -/
theorem updateEmitsThePrediction : Obligations.UpdateEmitsThePrediction := by
  intro n input s hactive hs hlen h64 h32
  rw [← outLen_eq_outLenTable] at h32
  have hpredicted : outLen s n.toNat false = (push engine s input).2.length := by rw [push_length engine hs, hlen]
  have hlive : s.st ≠ .empty := by rw [hactive]; decide
  have hquery : execWith engine (.getOutLen n false) s = _ := (Answered.getOutLenDone n false hlive hs h32).execWith
  rw [hpredicted] at h32 hquery
  rw [exec_eq_execWith, exec_eq_execWith]
  exact ⟨_, _, hquery, execWith_update_ok engine hactive hs h64 h32, update_rspPort engine s input⟩

/-- Settles O35: the path keeps what `PathKeeps` and `push_frame` say. -/
theorem updateFrame : Obligations.UpdateFrame := by
  intro input s t hexec ht
  rw [exec_eq_execWith] at hexec
  obtain ⟨-, -, -, rfl⟩ := update_of_active hexec ht
  obtain ⟨hconf, -, hcmd, hivt0, -⟩ := push_frame engine s input
  have hkeeps := push_keeps engine s input
  have hstream : s.mode ∈ [Mode.cfb, .cfb8, .ctr, .ofb, .rc4Stream] → isStream s.mode = true := by
    cases s.mode <;> decide
  have hkeystream : s.mode ∉ [Mode.cfb, .ofb, .ctr] → keepsKeystream s.mode = false := by
    cases s.mode <;> decide
  have hchain : s.mode = .ecb ∨ s.mode = .rc4Stream → needsIV s.mode = false := by
    cases s.mode <;> decide
  exact ⟨hconf, hivt0, hcmd, fun h => hkeeps.pend (hstream h), fun h => hkeeps.keystream (hkeystream h), hkeeps.sstate,
    fun h => hkeeps.chain (hchain h)⟩

/-- Settles O44: a sound state has `KPOS` inside the block, whatever stands behind the bytes the rules read. -/
theorem keystreamPosition : Obligations.KeystreamPosition := by
  intro input s t hs hmode hexec ht
  rw [exec_eq_execWith] at hexec
  obtain ⟨-, -, -, rfl⟩ := update_of_active hexec ht
  have hk : keepsKeystream s.mode = true := by
    revert hmode
    cases s.mode <;> decide
  have hkpos : s.kpos.toNat < s.blockLen := by
    obtain ⟨-, -, -, -, -, -, h⟩ := (State.sound_iff s).mp hs
    rwa [if_pos hk] at h
  obtain ⟨m, hm⟩ : ∃ m, modeClass s.mode = .stream m := by
    revert hk
    cases s.mode <;> simp [keepsKeystream, modeClass]
  rw [mode_eq_of_stream hm] at hk
  have hpush : push engine s input = streamPush engine m s input := by simp only [push, hm]
  rw [State.respond_kpos, State.addTotal_kpos, hpush]
  exact streamPush_kpos engine (configSound_of_sound hs).le16 hkpos hk input

/-! ### An input in pieces -/

theorem blockUnit_setPend (c : Config) (m : BlockMode) (s : State) (w b : List Byte) :
    blockUnit c m (s.setPend w) b = ((blockUnit c m s b).1.setPend w, (blockUnit c m s b).2) := by
  cases m with
  | ecb =>
    simp only [blockUnit, ecbUnit, State.setPend_dir]
    split <;> rfl
  | cbc =>
    simp only [blockUnit, cbcUnit, State.setPend_dir]
    split <;> rfl
  | xts => rfl

/-- The loop does not look at `PEND`. -/
theorem blockLoop_setPend (c : Config) (m : BlockMode) (fuel : Nat) (s : State) (w buf : List Byte) :
    blockLoop c m fuel (s.setPend w) buf = ((blockLoop c m fuel s buf).1.setPend w, (blockLoop c m fuel s buf).2) := by
  induction fuel generalizing s buf with
  | zero => rfl
  | succ fuel ih =>
    by_cases h : s.blockLen + s.hold ≤ buf.length
    · rw [blockLoop_turn c m fuel h, blockLoop_turn c m fuel (s := s.setPend w) h, State.setPend_blockLen, blockUnit_setPend]
      dsimp only
      rw [ih]
    · rw [blockLoop_short c m _ (s := s) (by omega), blockLoop_short c m _ (s := s.setPend w) (Nat.lt_of_not_le h)]

/-- R186 on the block path: the second piece meets in `PEND` what the loop left of the first. -/
theorem blockPush_append (c : Config) {m : BlockMode} {s : State} (hs : s.sound = true) (hm : modeClass s.mode = .trueBlock m)
    (xs ys : List Byte) :
    blockPush c m s (xs ++ ys)
      = ((blockPush c m (blockPush c m s xs).1 ys).1,
          (blockPush c m s xs).2 ++ (blockPush c m (blockPush c m s xs).1 ys).2) := by
  have hpos := State.blockLen_pos hs hm
  have hrest := blockLoop_rest_le c hs hm (Nat.le_refl (s.pendBytes ++ xs).length)
  have hspec := (blockLoop_spec c m hpos (configSound_of_sound hs).le16 _ (s.pendBytes ++ xs) (Nat.le_refl _)).2
  have hloop := blockLoop_append c m hpos (s.pendBytes ++ xs).length _ (s.pendBytes ++ xs) ys (Nat.le_refl _) (Nat.le_refl _)
  have hlen : (blockLoop c m (s.pendBytes ++ xs).length s (s.pendBytes ++ xs)).1.blockLen = s.blockLen :=
    blockLoop_blockLen c m _ s _
  simp only [blockPush]
  rw [State.setPend_pendBytes hrest, blockLoop_setPend, ← List.append_assoc]
  generalize blockLoop c m (s.pendBytes ++ xs).length s (s.pendBytes ++ xs) = r at *
  have hshorter : (r.2.2 ++ ys).length ≤ (s.pendBytes ++ xs ++ ys).length := by
    rw [hspec]
    simp only [List.length_append, List.length_drop]
    omega
  have hfuel := blockLoop_fuel c m (s := r.1) (by omega) _ _ (r.2.2 ++ ys) hshorter (Nat.le_refl _)
  dsimp only at hloop
  rw [hfuel] at hloop
  rw [hloop]
  rfl

/-- R186 on the two paths of UPDATE. -/
theorem push_append (c : Config) {s : State} (hs : s.sound = true) (xs ys : List Byte) :
    push c s (xs ++ ys)
      = ((push c (push c s xs).1 ys).1, (push c s xs).2 ++ (push c (push c s xs).1 ys).2) := by
  have hmode := push_mode c s xs
  cases hm : modeClass s.mode with
  | stream m =>
    have hpush : ∀ {t : State} (zs : List Byte), t.mode = s.mode → push c t zs = streamPush c m t zs :=
      fun zs ht => by rw [push, ht, hm]
    rw [hpush ys hmode, hpush xs rfl, hpush (xs ++ ys) rfl, streamPush_append]
  | trueBlock m =>
    have hpush : ∀ {t : State} (zs : List Byte), t.mode = s.mode → push c t zs = blockPush c m t zs :=
      fun zs ht => by rw [push, ht, hm]
    rw [hpush ys hmode, hpush xs rfl, hpush (xs ++ ys) rfl, blockPush_append c hs hm]

/-- UPDATE's path on no bytes. -/
theorem push_nil (c : Config) {s : State} (hs : s.sound = true)
    (htail : s.pend.toList.drop s.plen.toNat = zeros (31 - s.plen.toNat)) : push c s [] = (s, []) := by
  unfold push
  split
  · rfl
  · next m hm =>
    have hplen := plen_lt_of_sound hs hm
    rw [blockPush, List.append_nil, blockLoop_short c m _ (by rw [State.pendBytes_length]; exact hplen)]
    dsimp only
    rw [State.setPend_self htail]

theorem addTotal_zero (s : State) : s.addTotal 0 = s := by
  rw [State.addTotal, Nat.add_zero, BitVec.ofNat_toNat, BitVec.setWidth_eq]

/-- Settles O36. -/
theorem emptyUpdateChangesNothing : Obligations.EmptyUpdateChangesNothing := by
  intro s h hactive
  have hs := h.live_sound (by rw [hactive]; decide)
  have hnil := push_nil engine hs h.tails.2.2.2
  have htotal := s.total.isLt
  rw [exec_eq_execWith, execWith_update_ok engine hactive hs (by rw [List.length_nil]; omega) (by rw [hnil]; exact Nat.zero_le _), hnil,
    List.length_nil, addTotal_zero]

/-- The state after an UPDATE that processes its input. -/
def afterUpdate (c : Config) (s : State) (input : List Byte) : State :=
  ((push c s input).1.addTotal input.length).respond .success (push c s input).2 0

theorem afterUpdate_eq_outer (c : Config) (s : State) (input : List Byte) :
    afterUpdate c s input =
      (push c s input).1.outer (BitVec.ofNat 64 (s.total.toNat + input.length)) s.cmdPort
        (s.rspPort ++ [responsePacket .success (push c s input).2 0]) := by
  obtain ⟨i, k, p, t, q, n, hpush⟩ := push_state c s input
  rw [afterUpdate]
  generalize (push c s input).2 = data
  rw [hpush]
  rfl

theorem afterUpdate_rspPort (c : Config) (s : State) (input : List Byte) :
    (afterUpdate c s input).rspPort = s.rspPort ++ [responsePacket .success (push c s input).2 0] :=
  update_rspPort c s input

theorem afterUpdate_st (c : Config) (s : State) (input : List Byte) : (afterUpdate c s input).st = s.st := push_st c s input

theorem afterUpdate_total {c : Config} {s : State} {input : List Byte} (h64 : s.total.toNat + input.length ≤ 2 ^ 64 - 1) :
    (afterUpdate c s input).total.toNat = s.total.toNat + input.length := by
  rw [afterUpdate_eq_outer]
  exact (BitVec.toNat_ofNat _ _).trans (Nat.mod_eq_of_lt (by omega))

/-- R186: the output of two UPDATEs is that of one, and so are the registers. -/
theorem afterUpdate_append {c : Config} {s : State} (hs : s.sound = true) {xs ys : List Byte}
    (h64 : s.total.toNat + (xs ++ ys).length ≤ 2 ^ 64 - 1) :
    (push c s (xs ++ ys)).2 = (push c s xs).2 ++ (push c (afterUpdate c s xs) ys).2
      ∧ afterUpdate c s (xs ++ ys)
        = atPorts (afterUpdate c (afterUpdate c s xs) ys) s.cmdPort
            (s.rspPort ++ [responsePacket .success (push c s (xs ++ ys)).2 0]) := by
  rw [List.length_append] at h64
  have htotal : (afterUpdate c s xs).total.toNat + ys.length = s.total.toNat + (xs ++ ys).length := by
    rw [afterUpdate_total (by omega), List.length_append, Nat.add_assoc]
  have hsecond : push c (afterUpdate c s xs) ys
      = ((push c (push c s xs).1 ys).1.outer (afterUpdate c s xs).total (afterUpdate c s xs).cmdPort
          (afterUpdate c s xs).rspPort, (push c (push c s xs).1 ys).2) := by
    have houter := push_outer c (afterUpdate c s xs).total (afterUpdate c s xs).cmdPort (afterUpdate c s xs).rspPort
      (push c s xs).1 ys
    rwa [show (push c s xs).1.outer (afterUpdate c s xs).total (afterUpdate c s xs).cmdPort (afterUpdate c s xs).rspPort
      = afterUpdate c s xs from rfl] at houter
  have happend := push_append c hs xs ys
  constructor
  · rw [happend, hsecond]
  · rw [afterUpdate_eq_outer c (afterUpdate c s xs) ys, htotal, hsecond, afterUpdate_eq_outer c s (xs ++ ys), happend]
    rfl

/-- An UPDATE that fits, from a state with the invariant: the next state and that it has the invariant too. -/
theorem update_fits {c : Config} {s : State} (h : Inv c s) (hactive : s.st = .active) {input : List Byte}
    (h64 : s.total.toNat + input.length ≤ 2 ^ 64 - 1) (h32 : (push c s input).2.length ≤ 2 ^ 32 - 1) :
    execWith c (.update input) s = .next (afterUpdate c s input) ∧ Inv c (afterUpdate c s input) :=
  ⟨execWith_update_ok c hactive (h.live_sound (by rw [hactive]; decide)) h64 h32,
    inv_respond (inv_update h hactive h64) _ _ _⟩

/-- Settles O37. -/
theorem twoPiecesActAsOne : Obligations.TwoPiecesActAsOne := by
  intro xs ys s h hactive h64 h32
  have hs := h.live_sound (by rw [hactive]; decide)
  rw [← outLen_eq_outLenTable, ← push_length engine hs] at h32
  obtain ⟨hout, hstate⟩ := afterUpdate_append (c := engine) hs h64
  have hsum : xs.length + ys.length = (xs ++ ys).length := List.length_append.symm
  have h32' := h32
  rw [hout, List.length_append] at h32'
  obtain ⟨hfirst, hinv⟩ := update_fits (c := engine) (input := xs) h hactive (by omega) (by omega)
  obtain ⟨hsecond, -⟩ := update_fits (input := ys) hinv ((afterUpdate_st ..).trans hactive)
    (by rw [afterUpdate_total (by omega)]; omega) (by omega)
  obtain ⟨hwhole, -⟩ := update_fits h hactive h64 h32
  have hcmd : (afterUpdate engine (afterUpdate engine s xs) ys).cmdPort = s.cmdPort := by
    rw [afterUpdate_eq_outer, afterUpdate_eq_outer]
    rfl
  rw [exec_eq_engine]
  refine ⟨_, _, _, _, hfirst, afterUpdate_rspPort .., hsecond, afterUpdate_rspPort .., ?_⟩
  rw [hwhole, hstate, ← hout, ← hcmd]
  rfl

/-! ### Any number of pieces -/

theorem issueAll_append {run : Instr → State → Host.Outcome State Fault Refusal} {cmds more : List Instr} {s t u : State}
    {rs rs' : List Response} (h : issueAll run cmds s = some (t, rs)) (h' : issueAll run more t = some (u, rs')) :
    issueAll run (cmds ++ more) s = some (u, rs ++ rs') := by
  induction cmds generalizing s rs with
  | nil =>
    obtain ⟨rfl, rfl⟩ : s = t ∧ [] = rs := by simpa [issueAll_nil] using h
    exact h'
  | cons i rest ih =>
    obtain ⟨w, r, rs1, hissue, hrest, rfl⟩ := issueAll_cons_eq_some.mp h
    exact issueAll_cons_eq_some.mpr ⟨w, r, rs1 ++ rs', hissue, ih hrest, rfl⟩

theorem issueAll_singleton {run : Instr → State → Host.Outcome State Fault Refusal} {i : Instr} {s t : State} {r : Response}
    (h : issue run i s = some (t, r)) : issueAll run [i] s = some (t, [r]) :=
  issueAll_cons_eq_some.mpr ⟨t, r, [], h, rfl, rfl⟩

theorem sameRegisters_trans {s t u : State} (h : sameRegisters s t) (h' : sameRegisters t u) : sameRegisters s u := h.trans h'

/-- The response of an UPDATE that fits, read back. -/
theorem issue_update {c : Config} {s : State} (h : Inv c s) (hactive : s.st = .active) {input : List Byte}
    (h64 : s.total.toNat + input.length ≤ 2 ^ 64 - 1) (h32 : (push c s input).2.length ≤ 2 ^ 32 - 1) :
    issue (execWith c) (.update input) s
      = some (afterUpdate c s input, ⟨0, (push c s input).2.length, 0, (push c s input).2⟩) := by
  rw [issue_of_answer (update_fits h hactive h64 h32).1 (afterUpdate_rspPort c s input),
    readResponse_responsePacket .success (by omega) (by decide)]
  rfl

/-- R186: the pieces one after the other end where the whole does, with its output in pieces. Induction over the pieces,
each step joining the first two UPDATEs into one. -/
theorem issueAll_pieces {c : Config} (pieces : List (List Byte)) {s : State} (h : Inv c s) (hactive : s.st = .active)
    (h64 : s.total.toNat + pieces.flatten.length ≤ 2 ^ 64 - 1) (h32 : (push c s pieces.flatten).2.length ≤ 2 ^ 32 - 1) :
    ∃ t answers, issueAll (execWith c) (pieces.map Instr.update) s = some (t, answers) ∧ (∀ r ∈ answers, r.status = 0)
      ∧ (answers.map Response.data).flatten = (push c s pieces.flatten).2 ∧ sameRegisters t (afterUpdate c s pieces.flatten) := by
  have hs := h.live_sound (by rw [hactive]; decide)
  induction pieces generalizing s with
  | nil =>
    have hnil := push_nil c hs h.tails.2.2.2
    refine ⟨s, [], rfl, by simp, ?_, ?_⟩
    · rw [List.flatten_nil, hnil]
      rfl
    · rw [List.flatten_nil, afterUpdate, hnil, List.length_nil, addTotal_zero]
      exact sameRegisters_respond s _ _ _
  | cons p rest ih =>
    rw [List.flatten_cons] at h64 h32 ⊢
    obtain ⟨hout, hstate⟩ := afterUpdate_append (c := c) hs h64
    have hsum : p.length + rest.flatten.length = (p ++ rest.flatten).length := List.length_append.symm
    rw [hout, List.length_append] at h32
    have hfirst64 : s.total.toNat + p.length ≤ 2 ^ 64 - 1 := by omega
    have hfirst := issue_update (c := c) h hactive hfirst64 (by omega)
    have hinv := (update_fits h hactive hfirst64 (by omega)).2
    have hactive' := (afterUpdate_st c s p).trans hactive
    obtain ⟨t, answers, hrest, hok, hdata, hsame⟩ := ih hinv hactive' (by rw [afterUpdate_total hfirst64]; omega) (by omega)
      (hinv.live_sound (by rw [hactive']; decide))
    refine ⟨t, _ :: answers, issueAll_cons_eq_some.mpr ⟨_, _, answers, hfirst, hrest, rfl⟩, ?_, ?_, ?_⟩
    · exact List.forall_mem_cons.mpr ⟨rfl, hok⟩
    · rw [List.map_cons, List.flatten_cons, hdata, hout]
    · rw [hstate]
      exact sameRegisters_trans hsame (sameRegisters_atPorts _ _ _)

/-- Settles O38: FINAL meets equal registers, so it answers alike. -/
theorem fragmentationInvariance : Obligations.FragmentationInvariance := by
  intro pieces s h hactive h64 h32
  have hs := h.live_sound (by rw [hactive]; decide)
  rw [← outLen_eq_outLenTable, ← push_length engine hs] at h32
  obtain ⟨t, answers, hpieces, hok, hdata, hsame⟩ := issueAll_pieces pieces h hactive h64 h32
  have hwhole := issue_update h hactive h64 h32
  have hinv := (update_fits h hactive h64 h32).2
  obtain ⟨u, hu⟩ := execWith_goesOn hinv.live_sound .final
  obtain ⟨t', packet, ht', hsame', hrsp, hrsp'⟩ := execWith_sameRegisters hsame.symm hu
  have hfinal := issueAll_singleton (issue_of_answer ht' hrsp')
  rw [exec_eq_engine]
  exact ⟨t', u, answers, _, _, _, issueAll_append hpieces hfinal,
    issueAll_cons_eq_some.mpr ⟨_, _, _, hwhole, issueAll_singleton (issue_of_answer hu hrsp), rfl⟩, hok, rfl, rfl,
    by rw [hdata], hsame'.symm⟩

end Sys2Proof.Proofs
end

section
/-!
The mode driver in block form (spec file 42_mode_driver.md): what UPDATE does with whole blocks (R174, R202 to R204, R220),
with units of keystream (R205 to R209) and with single bytes (R207, R230), each as a fold of the mode's rule.
-/

namespace Sys2Proof.Proofs

open Sys2Proof.Machine Sys2Proof.Claims

theorem scan_length {σ α β : Type} (f : σ → α → σ × β) (v : σ) (l : List α) : (scan f v l).2.length = l.length := by
  induction l generalizing v with
  | nil => rfl
  | cons x rest ih => rw [scan, List.length_cons, List.length_cons, ih]

/-! ### True block modes -/

/-- The output of a `BlockUnit` is the block rule's, whatever stands behind the bytes of `IVT` the rules read. -/
theorem blockUnit_output (c : Config) {m : BlockMode} {s : State} (hm : modeClass s.mode = .trueBlock m) (b : List Byte) :
    (blockUnit c m s b).2 = (blockRule c s s.ivtBytes b).2 := by
  have hmode := mode_eq_of_trueBlock hm
  cases m <;> cases hdir : s.dir <;>
    simp only [blockUnit, ecbUnit, cbcUnit, cbcEncUnit, cbcDecUnit, xtsUnit, blockRule, hmode, modeOfBlock, hdir] <;> rfl

/-- A `BlockUnit` under the chain value `v` is the mode's block rule. -/
theorem blockUnit_setIvt (c : Config) {m : BlockMode} {s : State} (hm : modeClass s.mode = .trueBlock m)
    (h16 : s.blockLen ≤ 16) {v : List Byte} (hv : v.length = s.blockLen) (b : List Byte) :
    blockUnit c m (s.setIvt v) b = (s.setIvt (blockRule c s v b).1, (blockRule c s v b).2) := by
  have hread : (s.setIvt v).ivtBytes = v := State.setIvt_ivtBytes hv h16
  have hmode := mode_eq_of_trueBlock hm
  cases m <;> cases hdir : s.dir <;>
    simp only [blockUnit, ecbUnit, cbcUnit, cbcEncUnit, cbcDecUnit, xtsUnit, blockRule, hmode, modeOfBlock, hdir, hread,
      State.setIvt_dir, State.setIvt_enc, State.setIvt_dec] <;> rfl

/-- The block rule of a true block mode takes a block to a block, and a chain value to a chain value. -/
theorem blockRule_length (c : Config) {m : BlockMode} {s : State} (hm : modeClass s.mode = .trueBlock m) {k : Nat}
    {v b : List Byte} (hv : v.length = k) (hb : b.length = k) :
    (blockRule c s v b).1.length = k ∧ (blockRule c s v b).2.length = k := by
  have hmode := mode_eq_of_trueBlock hm
  cases m <;> cases hdir : s.dir <;> simp [blockRule, hmode, modeOfBlock, hdir, hv, hb]

theorem scan_blockRule_length (c : Config) {m : BlockMode} {s : State} (hm : modeClass s.mode = .trueBlock m) {k : Nat}
    {blocks : List (List Byte)} (hblocks : ∀ b ∈ blocks, b.length = k) {v : List Byte} (hv : v.length = k) :
    (scan (blockRule c s) v blocks).1.length = k ∧ ∀ b ∈ (scan (blockRule c s) v blocks).2, b.length = k := by
  induction blocks generalizing v with
  | nil => exact ⟨hv, by simp [scan]⟩
  | cons b rest ih =>
    obtain ⟨hb, hrest⟩ := List.forall_mem_cons.mp hblocks
    obtain ⟨hv', hy⟩ := blockRule_length c hm hv hb
    obtain ⟨h1, h2⟩ := ih hrest hv'
    exact ⟨h1, List.forall_mem_cons.mpr ⟨hy, h2⟩⟩

/-- The loop on whole blocks and what is kept back behind them: a fold of the block rule. -/
theorem blockLoop_blocks (c : Config) {m : BlockMode} {s : State} (hm : modeClass s.mode = .trueBlock m)
    (h16 : s.blockLen ≤ 16) (hpos : 0 < s.blockLen) {blocks : List (List Byte)} {kept : List Byte}
    (hblocks : ∀ b ∈ blocks, b.length = s.blockLen) (hhold : blocks = [] ∨ s.hold ≤ kept.length)
    (hkept : kept.length < s.blockLen + s.hold) {v : List Byte} (hv : v.length = s.blockLen) {fuel : Nat}
    (hfuel : (blocks.flatten ++ kept).length ≤ fuel) :
    blockLoop c m fuel (s.setIvt v) (blocks.flatten ++ kept) =
      (s.setIvt (scan (blockRule c s) v blocks).1, (scan (blockRule c s) v blocks).2.flatten, kept) := by
  induction blocks generalizing v fuel with
  | nil => exact blockLoop_short c m fuel hkept
  | cons b rest ih =>
    obtain ⟨hb, hrest⟩ := List.forall_mem_cons.mp hblocks
    have hhold' : s.hold ≤ kept.length := hhold.resolve_left (List.cons_ne_nil b rest)
    rw [List.flatten_cons, List.append_assoc] at hfuel ⊢
    rw [List.length_append, hb] at hfuel
    obtain ⟨fuel, rfl⟩ : ∃ f, fuel = f + 1 := ⟨fuel - 1, by omega⟩
    have hfull : (s.setIvt v).blockLen + (s.setIvt v).hold ≤ (b ++ (rest.flatten ++ kept)).length := by
      rw [State.setIvt_blockLen, State.setIvt_hold, List.length_append, List.length_append, hb]
      omega
    rw [blockLoop_turn c m fuel hfull, State.setIvt_blockLen, List.take_left' hb, List.drop_left' hb,
      blockUnit_setIvt c hm h16 hv]
    dsimp only
    rw [ih hrest (.inr hhold') (blockRule_length c hm hv hb).1 (by omega)]
    rfl

/-- UPDATE's path on blocks and what is kept behind them. -/
theorem push_blocks (c : Config) {m : BlockMode} {s : State} (hs : s.sound = true) (htidy : Tidy s)
    (hm : modeClass s.mode = .trueBlock m) {blocks : List (List Byte)} {kept input : List Byte}
    (hbuf : s.pendBytes ++ input = blocks.flatten ++ kept) (hblocks : ∀ b ∈ blocks, b.length = s.blockLen)
    (hhold : blocks = [] ∨ s.hold ≤ kept.length) (hkept : kept.length < s.blockLen + s.hold) :
    push c s input = ((s.setIvt (scan (blockRule c s) s.ivtBytes blocks).1).setPend kept,
      (scan (blockRule c s) s.ivtBytes blocks).2.flatten) := by
  have hloop := blockLoop_blocks c hm htidy.le16 (State.blockLen_pos hs hm) hblocks hhold hkept htidy.ivtBytes_length
    (Nat.le_refl _)
  rw [htidy.setIvt_ivtBytes_self] at hloop
  simp only [push, hm, blockPush]
  rw [hbuf, hloop]

/-- Blocks give as many bytes as they take. -/
theorem scan_blockRule_flatten_length (c : Config) {m : BlockMode} {s : State} (hm : modeClass s.mode = .trueBlock m) {k : Nat}
    {blocks : List (List Byte)} (hblocks : ∀ b ∈ blocks, b.length = k) {v : List Byte} (hv : v.length = k) :
    (scan (blockRule c s) v blocks).2.flatten.length = blocks.flatten.length := by
  have hlens := (scan_blockRule_length c hm hblocks hv).2
  rw [List.length_flatten, List.length_flatten, List.map_eq_replicate_iff.mpr hlens,
    List.map_eq_replicate_iff.mpr hblocks, scan_length]

/-- UPDATE in a true block mode on blocks and what is kept behind them, from a state with the invariant. -/
theorem update_blocks {c : Config} {m : BlockMode} {s : State} (h : Inv c s) (hactive : s.st = .active)
    (hm : modeClass s.mode = .trueBlock m) {blocks : List (List Byte)} {kept input : List Byte}
    (hbuf : s.pendBytes ++ input = blocks.flatten ++ kept) (hblocks : ∀ b ∈ blocks, b.length = s.blockLen)
    (hhold : blocks = [] ∨ s.hold ≤ kept.length) (hkept : kept.length < s.blockLen + s.hold)
    (h64 : s.total.toNat + input.length ≤ 2 ^ 64 - 1) (h32 : blocks.flatten.length ≤ 2 ^ 32 - 1) :
    execWith c (.update input) s = .next
      ({ s with
          ivt := fit 16 (scan (blockRule c s) s.ivtBytes blocks).1
          pend := fit 31 kept
          plen := BitVec.ofNat 5 kept.length
          total := BitVec.ofNat 64 (s.total.toNat + input.length) }.respond .success
        (scan (blockRule c s) s.ivtBytes blocks).2.flatten 0) := by
  have hlive : s.st ≠ .empty := by rw [hactive]; decide
  have hs := h.live_sound hlive
  have htidy := tidy_of_inv h hlive
  have hpush := push_blocks c hs htidy hm hbuf hblocks hhold hkept
  have hout := scan_blockRule_flatten_length c hm hblocks htidy.ivtBytes_length
  rw [execWith_update_ok c hactive hs h64 (by rw [hpush, hout]; exact h32), hpush]
  rfl

/-- Settles O39: outside withholding mode nothing is held back but the incomplete block. -/
theorem updateTrueBlockModes : Obligations.UpdateTrueBlockModes := by
  intro blocks tail input s h hactive hmode hplain hbuf hblocks htail h64 h32
  obtain ⟨m, hm⟩ := (modeClass_eq_trueBlock_iff s.mode).mpr hmode
  have hhold : s.hold = 0 := by
    rw [State.hold_eq, if_neg]
    rintro ⟨hdir, hpad⟩
    rcases hplain with hp | hd
    · rw [hpad] at hp; cases hp
    · rw [hdir] at hd; cases hd
  rw [exec_eq_execWith]
  exact update_blocks h hactive hm hbuf hblocks (.inr (by omega)) (by rw [hhold]; exact htail) h64 h32

/-- PKCS7 goes with ECB and CBC only (R38). -/
theorem trueBlock_of_pkcs7 {s : State} (hs : s.sound = true) (hpad : s.pad = .pkcs7) :
    ∃ m, modeClass s.mode = .trueBlock m := by
  have hok : padOK s.mode = true := (configSound_of_sound hs).pad.resolve_left (by rw [hpad]; decide)
  rcases (padOK_iff s.mode).mp hok with h | h <;> rw [h] <;> exact ⟨_, rfl⟩

/-- Settles O40: withholding keeps one whole block more. -/
theorem updateWithholdsLastBlock : Obligations.UpdateWithholdsLastBlock := by
  intro blocks kept input s h hactive hdir hpad hbuf hblocks hlast hkept h64 h32
  obtain ⟨m, hm⟩ := trueBlock_of_pkcs7 (h.live_sound (by rw [hactive]; decide)) hpad
  have hhold : s.hold = s.bs.toNat := by
    rw [State.hold_eq, if_pos ⟨hdir, hpad⟩]
    rfl
  have hbs : s.blockLen = s.bs.toNat := rfl
  rw [exec_eq_execWith]
  exact update_blocks h hactive hm hbuf hblocks (by rwa [hhold]) (by omega) h64 h32

/-! ### CFB8 and RC4-stream, byte by byte -/

theorem streamPush_cfb8 (c : Config) {s : State} (hpos : 0 < s.blockLen) (h16 : s.blockLen ≤ 16) {v : List Byte}
    (hv : v.length = s.blockLen) (xs : List Byte) :
    streamPush c .cfb8 (s.setIvt v) xs = (s.setIvt (scan (cfb8Rule c s) v xs).1, (scan (cfb8Rule c s) v xs).2) := by
  induction xs generalizing v with
  | nil => rfl
  | cons x rest ih =>
    have hread : (s.setIvt v).ivtBytes = v := State.setIvt_ivtBytes hv h16
    have hunit : byteUnit c .cfb8 (s.setIvt v) x = (s.setIvt (cfb8Rule c s v x).1, (cfb8Rule c s v x).2) := by
      simp only [byteUnit, cfb8Unit, hread, cfb8Rule, State.cipherByte, State.setIvt_dir]
      cases s.dir <;> rfl
    have hnext : (cfb8Rule c s v x).1.length = s.blockLen := by
      simp only [cfb8Rule, List.length_append, List.length_drop, List.length_singleton]
      omega
    simp only [streamPush, hunit, ih hnext, scan]

theorem streamPush_rc4 (c : Config) (s : State) (xs : List Byte) :
    streamPush c .rc4 s xs = (s.setSState (scan (rc4Rule c s) s.sstate xs).1, (scan (rc4Rule c s) s.sstate xs).2) := by
  have hfrom : ∀ k, streamPush c .rc4 (s.setSState k) xs
      = (s.setSState (scan (rc4Rule c s) k xs).1, (scan (rc4Rule c s) k xs).2) := by
    induction xs with
    | nil => exact fun _ => rfl
    | cons x rest ih =>
      intro k
      have hunit : byteUnit c .rc4 (s.setSState k) x = (s.setSState (rc4Rule c s k x).1, (rc4Rule c s k x).2) := rfl
      simp only [streamPush, hunit, ih, scan]
  exact hfrom s.sstate

/-- Settles O42. -/
theorem updateCfb8 : Obligations.UpdateCfb8 := by
  intro input s h hactive hmode h64 h32
  have hlive : s.st ≠ .empty := by rw [hactive]; decide
  have htidy := tidy_of_inv h hlive
  have hstream := streamPush_cfb8 engine (htidy.pos (by rw [hmode]; decide)) htidy.le16 htidy.ivtBytes_length input
  rw [htidy.setIvt_ivtBytes_self] at hstream
  have hpush : push engine s input = _ := (by rw [push, hmode]; rfl : _ = streamPush engine .cfb8 s input).trans hstream
  rw [exec_eq_execWith, execWith_update_ok engine hactive (h.live_sound hlive) h64
    (by rw [hpush, scan_length]; exact h32), hpush]
  rfl

/-- Settles O43. -/
theorem updateRc4Stream : Obligations.UpdateRc4Stream := by
  intro input s hactive hs hmode h64 h32
  have hpush : push engine s input = _ :=
    (by rw [push, hmode]; rfl : _ = streamPush engine .rc4 s input).trans (streamPush_rc4 engine s input)
  rw [exec_eq_execWith, execWith_update_ok engine hactive hs h64 (by rw [hpush, scan_length]; exact h32), hpush]
  rfl

end Sys2Proof.Proofs
end

section
/-!
The keystream modes CFB, OFB and CTR in block form (spec file 42_mode_driver.md, R205, R206, R208, R209): a unit transform is
a refill, where `KPOS` is 0, and the emission of one byte; a unit of at most a block needs one refill.
-/

namespace Sys2Proof.Proofs

open Sys2Proof.Machine Sys2Proof.Claims

/-! ### Refill and emission -/

/-- The first half of a keystream mode's `ByteUnit`. -/
def refill (c : Config) (m : StreamMode) (s : State) : State :=
  match m with
  | .cfb => cfbRefill c s
  | .ctr => ctrRefill c s
  | .ofb => ofbRefill c s
  | .cfb8 => s
  | .rc4 => s

/-- The second half of a keystream mode's `ByteUnit`: CFB feeds the ciphertext byte back. -/
def emit (m : StreamMode) (s : State) (x : Byte) : State × Byte :=
  (if m = .cfb then (s.setIvtByte (s.cipherByte x (x ^^^ s.kstrByte))).stepKpos else s.stepKpos, x ^^^ s.kstrByte)

theorem byteUnit_eq_emit_refill (c : Config) {m : StreamMode} (hk : keepsKeystream (modeOfStream m) = true) (s : State)
    (x : Byte) : byteUnit c m s x = emit m (refill c m s) x := by
  cases m with
  | cfb | ctr | ofb => rfl
  | cfb8 | rc4 => cases hk

theorem refill_of_kpos_ne (c : Config) (m : StreamMode) {s : State} (h : s.kpos ≠ 0) : refill c m s = s := by
  cases m with
  | cfb | ctr | ofb => exact if_neg h
  | cfb8 | rc4 => rfl

/-! ### A state in the middle of a block -/

/-- `IVT` holds `v`, `KSTR` holds `k`, and `KPOS` is `p`. -/
def keyed (s : State) (v k : List Byte) (p : Nat) : State := { (s.setIvt v).setKstr k with kpos := BitVec.ofNat 4 p }

/-- `bs` written over `v` from place `p` on. -/
def overwrite (v : List Byte) (p : Nat) (bs : List Byte) : List Byte := v.take p ++ bs ++ v.drop (p + bs.length)

/-- The feedback register after the input `xs` has given `ys` from place `p` of the block on: CFB writes the ciphertext. -/
def absorbed (s : State) (v : List Byte) (p : Nat) (xs ys : List Byte) : List Byte :=
  if s.mode = .cfb then overwrite v p (if s.dir = .encrypt then ys else xs) else v

theorem overwrite_nil (v : List Byte) (p : Nat) : overwrite v p [] = v := by
  simp [overwrite]

@[simp] theorem overwrite_length {v : List Byte} {p : Nat} {bs : List Byte} (h : p + bs.length ≤ v.length) :
    (overwrite v p bs).length = v.length := by
  simp only [overwrite, List.length_append, List.length_take, List.length_drop]
  omega

theorem overwrite_singleton {v : List Byte} {p : Nat} (h : p < v.length) (b : Byte) : overwrite v p [b] = v.set p b := by
  rw [List.set_eq_take_append_cons_drop, if_pos h]
  simp [overwrite]

theorem overwrite_cons {v : List Byte} {p : Nat} (h : p < v.length) (b : Byte) (bs : List Byte) :
    overwrite (overwrite v p [b]) (p + 1) bs = overwrite v p (b :: bs) := by
  have hlen : (v.take p ++ [b]).length = p + 1 := by
    rw [List.length_append, List.length_take_of_le (by omega), List.length_singleton]
  have htake : (v.take p ++ [b] ++ v.drop (p + 1)).take (p + 1) = v.take p ++ [b] := List.take_left' hlen
  have hdrop : (v.take p ++ [b] ++ v.drop (p + 1)).drop (p + 1 + bs.length) = v.drop (p + 1 + bs.length) := by
    rw [← List.drop_drop, List.drop_left' hlen, List.drop_drop]
  have hone : overwrite v p [b] = v.take p ++ [b] ++ v.drop (p + 1) := rfl
  rw [hone, overwrite, htake, hdrop, overwrite, List.length_cons, Nat.add_right_comm p 1, ← Nat.add_assoc, List.append_assoc,
    List.append_assoc, List.append_assoc]
  rfl

theorem absorbed_nil (s : State) (v : List Byte) (p : Nat) : absorbed s v p [] [] = v := by
  simp [absorbed, overwrite_nil]

theorem absorbed_length {s : State} {v : List Byte} {p : Nat} {xs ys : List Byte} (hlen : ys.length = xs.length)
    (h : p + xs.length ≤ v.length) : (absorbed s v p xs ys).length = v.length := by
  unfold absorbed
  split
  · split
    · exact overwrite_length (by rwa [hlen])
    · exact overwrite_length h
  · rfl

theorem absorbed_cons {s : State} {v : List Byte} {p : Nat} (h : p < v.length) (x y : Byte) (xs ys : List Byte) :
    absorbed s (absorbed s v p [x] [y]) (p + 1) xs ys = absorbed s v p (x :: xs) (y :: ys) := by
  unfold absorbed
  split
  · split <;> exact overwrite_cons h ..
  · rfl

/-! ### One byte -/

theorem kstrByte_eq_getD (s : State) : s.kstrByte = s.kstr.toList.getD s.kpos.toNat 0 := by
  have hlt : s.kpos.toNat < s.kstr.toList.length := by
    rw [Vector.length_toList]
    exact s.kpos.isLt
  rw [State.kstrByte, List.getD_eq_getElem _ _ hlt, Vector.getElem_toList]

theorem fit_getD {n p : Nat} {l : List Byte} (hp : p < l.length) (hn : p < n) : (fit n l).toList.getD p 0 = l.getD p 0 := by
  simp only [fit_toList, List.getD_eq_getElem?_getD, List.getElem?_take_of_lt hn, List.getElem?_append_left hp]

theorem fit_set {n p : Nat} {l : List Byte} (hp : p < l.length) (hn : p < n) (b : Byte) :
    (fit n l).set p b hn = fit n (l.set p b) := by
  apply Vector.toList_inj.mp
  rw [Vector.toList_set, fit_toList, fit_toList, ← List.take_set, List.set_append_left _ _ hp]

section Keyed

variable {s : State} {v k : List Byte} {p : Nat}

theorem keyed_kpos_toNat (hp : p < 16) : (keyed s v k p).kpos.toNat = p := by
  rw [keyed, BitVec.toNat_ofNat]
  exact Nat.mod_eq_of_lt hp

theorem keyed_kstrByte (hp : p < 16) (hk : p < k.length) : (keyed s v k p).kstrByte = k.getD p 0 := by
  rw [kstrByte_eq_getD, keyed_kpos_toNat hp]
  exact fit_getD hk hp

theorem keyed_stepKpos (hp : p < 16) : (keyed s v k p).stepKpos = keyed s v k ((p + 1) % s.blockLen) := by
  rw [State.stepKpos, keyed_kpos_toNat hp]
  rfl

theorem keyed_setIvtByte (hp : p < 16) (hv : p < v.length) (b : Byte) :
    (keyed s v k p).setIvtByte b = keyed s (overwrite v p [b]) k p := by
  have hivt : (keyed s v k p).ivt.set (keyed s v k p).kpos.toNat b (by rw [keyed_kpos_toNat hp]; exact hp)
      = fit 16 (overwrite v p [b]) := by
    rw [overwrite_singleton hv, ← fit_set hv hp]
    congr 1
    exact keyed_kpos_toNat hp
  unfold State.setIvtByte
  rw [hivt]
  rfl

/-- R205: one byte emitted in the middle of a block. -/
theorem emit_keyed {m : StreamMode} (hmode : s.mode = modeOfStream m) (hp : p < 16) (hv : p < v.length) (hk : p < k.length)
    (x : Byte) :
    emit m (keyed s v k p) x
      = (keyed s (absorbed s v p [x] [x ^^^ k.getD p 0]) k ((p + 1) % s.blockLen), x ^^^ k.getD p 0) := by
  unfold emit absorbed
  rw [keyed_kstrByte hp hk]
  by_cases hm : m = .cfb
  · subst hm
    have hcipher : (keyed s v k p).cipherByte x (x ^^^ k.getD p 0) = if s.dir = .encrypt then x ^^^ k.getD p 0 else x := by
      have hdir : (keyed s v k p).dir = s.dir := rfl
      rw [State.cipherByte, hdir]
      cases s.dir <;> rfl
    rw [if_pos rfl, if_pos (show s.mode = .cfb from hmode), keyed_setIvtByte hp hv, keyed_stepKpos hp, hcipher]
    split <;> rfl
  · have hne : s.mode ≠ .cfb := by
      rw [hmode]
      cases m <;> simp_all [modeOfStream]
    rw [if_neg hm, if_neg hne, keyed_stepKpos hp]

end Keyed

/-! ### One unit -/

theorem xorBytes_cons_drop {k : List Byte} {p : Nat} (h : p < k.length) (x : Byte) (xs : List Byte) :
    xorBytes (x :: xs) (k.drop p) = (x ^^^ k.getD p 0) :: xorBytes xs (k.drop (p + 1)) := by
  rw [List.drop_eq_getElem_cons h, List.getD_eq_getElem _ _ h]
  rfl

section Unit

variable (c : Config) {m : StreamMode} {s : State} {k : List Byte}

/-- After the first byte of a block, up to its end, no refill happens. -/
theorem streamPush_keyed (hkeeps : keepsKeystream (modeOfStream m) = true) (hmode : s.mode = modeOfStream m)
    (h16 : s.blockLen ≤ 16) (hk : k.length = s.blockLen) (xs : List Byte) {p : Nat} {v : List Byte}
    (hv : v.length = s.blockLen) (hp : 1 ≤ p) (hend : p + xs.length ≤ s.blockLen) :
    streamPush c m (keyed s v k (p % s.blockLen)) xs
      = (keyed s (absorbed s v p xs (xorBytes xs (k.drop p))) k ((p + xs.length) % s.blockLen), xorBytes xs (k.drop p)) := by
  induction xs generalizing p v with
  | nil =>
    have hxor : xorBytes [] (k.drop p) = [] := rfl
    rw [hxor, absorbed_nil]
    rfl
  | cons x rest ih =>
    rw [List.length_cons] at hend
    have hpv : p < v.length := by omega
    have hne : (keyed s v k p).kpos ≠ 0 := by
      intro h0
      have htoNat := keyed_kpos_toNat (s := s) (v := v) (k := k) (p := p) (by omega)
      rw [h0] at htoNat
      simp at htoNat
      omega
    have hnext : (absorbed s v p [x] [x ^^^ k.getD p 0]).length = s.blockLen :=
      (absorbed_length (xs := [x]) (ys := [x ^^^ k.getD p 0]) rfl (show p + 1 ≤ v.length by omega)).trans hv
    rw [Nat.mod_eq_of_lt (by omega), streamPush, byteUnit_eq_emit_refill c hkeeps, refill_of_kpos_ne c m hne,
      emit_keyed hmode (by omega) hpv (by omega)]
    dsimp only
    rw [ih hnext (by omega) (by omega), xorBytes_cons_drop (by omega), absorbed_cons hpv, List.length_cons, Nat.add_right_comm,
      Nat.add_assoc]

/-- A unit of at most a block, from the state its refill makes. -/
theorem streamPush_unit (hkeeps : keepsKeystream (modeOfStream m) = true) (hmode : s.mode = modeOfStream m)
    (h16 : s.blockLen ≤ 16) (hk : k.length = s.blockLen) {s0 : State} {v : List Byte} (hv : v.length = s.blockLen)
    (hrefill : refill c m s0 = keyed s v k 0) {u : List Byte} (hpos : 1 ≤ u.length) (hle : u.length ≤ s.blockLen) :
    streamPush c m s0 u = (keyed s (absorbed s v 0 u (xorBytes u k)) k (u.length % s.blockLen), xorBytes u k) := by
  obtain ⟨x, rest, rfl⟩ := List.exists_cons_of_length_pos hpos
  rw [List.length_cons] at hle
  have hpv : 0 < v.length := by omega
  have hnext : (absorbed s v 0 [x] [x ^^^ k.getD 0 0]).length = s.blockLen :=
    (absorbed_length (xs := [x]) (ys := [x ^^^ k.getD 0 0]) rfl (show 0 + 1 ≤ v.length by omega)).trans hv
  have hxor := xorBytes_cons_drop (k := k) (p := 0) (by omega) x rest
  rw [List.drop_zero] at hxor
  rw [streamPush, byteUnit_eq_emit_refill c hkeeps, hrefill, emit_keyed hmode (by omega) hpv (by omega), Nat.zero_add]
  dsimp only
  rw [streamPush_keyed c hkeeps hmode h16 hk rest hnext (Nat.le_refl 1) (by omega), absorbed_cons hpv, hxor, List.length_cons,
    Nat.add_comm 1]

end Unit

/-! ### Units of keystream -/

/-- R206, R208, R209 where `KPOS` is 0: the keystream block, and the chain value OFB and CTR move on to. -/
theorem refill_keyed (c : Config) {m : StreamMode} {s : State} (hkeeps : keepsKeystream (modeOfStream m) = true)
    (h16 : s.blockLen ≤ 16) {v : List Byte} (hv : v.length = s.blockLen) (k : List Byte) :
    refill c m (keyed s v k 0)
      = keyed s (match m with
          | .ofb => encBlock c s.alg s.keySched v
          | .ctr => ctrInc s.ctrBE v
          | _ => v) (encBlock c s.alg s.keySched v) 0 := by
  have hread : (keyed s v k 0).ivtBytes = v := State.setIvt_ivtBytes hv h16
  have hkpos : (keyed s v k 0).kpos = 0 := rfl
  cases m with
  | cfb =>
    simp only [refill, cfbRefill, hkpos, hread, if_true]
    rfl
  | ofb =>
    simp only [refill, ofbRefill, hkpos, hread, if_true]
    rfl
  | ctr =>
    simp only [refill, ctrRefill, hkpos, hread, if_true]
    rfl
  | cfb8 | rc4 => cases hkeeps

/-- R205 for a unit from `KPOS` = 0: the mode's block rule. -/
theorem streamPush_keyed_unit (c : Config) {m : StreamMode} {s : State} (hkeeps : keepsKeystream (modeOfStream m) = true)
    (hmode : s.mode = modeOfStream m) (h16 : s.blockLen ≤ 16) {v : List Byte} (hv : v.length = s.blockLen) (k : List Byte)
    {u : List Byte} (hpos : 1 ≤ u.length) (hle : u.length ≤ s.blockLen) :
    streamPush c m (keyed s v k 0) u
      = (keyed s (blockRule c s v u).1 (encBlock c s.alg s.keySched v) (u.length % s.blockLen), (blockRule c s v u).2) := by
  have hk : (encBlock c s.alg s.keySched v).length = s.blockLen := (encBlock_length c _ _ v).trans hv
  have hout : (xorBytes u (encBlock c s.alg s.keySched v)).length = u.length := by
    rw [xorBytes_length, hk]
    omega
  have hrefill := refill_keyed c hkeeps h16 hv k
  have hunit := fun w hw => streamPush_unit c hkeeps hmode h16 hk (s0 := keyed s v k 0) (v := w) hw (u := u)
  cases m with
  | cfb =>
    rw [hunit v hv hrefill hpos hle]
    cases hdir : s.dir <;>
      simp [blockRule, absorbed, overwrite, show s.mode = .cfb from hmode, hdir, hout]
  | ofb =>
    rw [hunit _ hk hrefill hpos hle]
    simp [blockRule, absorbed, show s.mode = .ofb from hmode]
  | ctr =>
    rw [hunit _ ((ctrInc_length _ _).trans hv) hrefill hpos hle]
    simp [blockRule, absorbed, show s.mode = .ctr from hmode]
  | cfb8 | rc4 => cases hkeeps

/-- The block rule of a keystream mode takes a chain value to a chain value. -/
theorem blockRule_keystream_length (c : Config) {m : StreamMode} {s : State}
    (hkeeps : keepsKeystream (modeOfStream m) = true) (hmode : s.mode = modeOfStream m) {v u : List Byte}
    (hle : u.length ≤ v.length) : (blockRule c s v u).1.length = v.length ∧ (blockRule c s v u).2.length = u.length := by
  cases m with
  | cfb =>
    cases hdir : s.dir <;> simp [blockRule, show s.mode = .cfb from hmode, hdir, hle]
  | ofb => simp [blockRule, show s.mode = .ofb from hmode, hle]
  | ctr => simp [blockRule, show s.mode = .ctr from hmode, hle]
  | cfb8 | rc4 => cases hkeeps

/-- The units one after the other, all but the last a whole block: induction over the units. -/
theorem streamPush_units (c : Config) {m : StreamMode} {s : State} (hkeeps : keepsKeystream (modeOfStream m) = true)
    (hmode : s.mode = modeOfStream m) (h16 : s.blockLen ≤ 16) {units : List (List Byte)}
    (hunits : ∀ u ∈ units, 1 ≤ u.length ∧ u.length ≤ s.blockLen) (hwhole : ∀ u ∈ units.dropLast, u.length = s.blockLen)
    {v : List Byte} (hv : v.length = s.blockLen) (k : List Byte) :
    streamPush c m (keyed s v k 0) units.flatten
      = (keyed s (scan (blockRule c s) v units).1
          (if units = [] then k else encBlock c s.alg s.keySched (scan (blockRule c s) v units.dropLast).1)
          (units.flatten.length % s.blockLen), (scan (blockRule c s) v units).2.flatten) := by
  induction units generalizing v k with
  | nil =>
    rw [List.flatten_nil, List.length_nil, Nat.zero_mod]
    rfl
  | cons u rest ih =>
    obtain ⟨⟨hpos, hle⟩, hrest⟩ := List.forall_mem_cons.mp hunits
    have hunit := streamPush_keyed_unit c hkeeps hmode h16 hv k hpos hle
    cases rest with
    | nil =>
      rw [List.flatten_singleton, hunit]
      simp [scan]
    | cons w others =>
      rw [List.dropLast_cons_of_ne_nil (List.cons_ne_nil w others), List.forall_mem_cons] at hwhole
      obtain ⟨hfull, hwhole'⟩ := hwhole
      have hnext : (blockRule c s v u).1.length = s.blockLen :=
        (blockRule_keystream_length c hkeeps hmode (by omega)).1.trans hv
      rw [List.flatten_cons, streamPush_append, hunit]
      dsimp only
      rw [hfull, Nat.mod_self, ih hrest hwhole' hnext, List.length_append, hfull, Nat.add_mod_left, if_neg (List.cons_ne_nil _ _),
        if_neg (List.cons_ne_nil _ _), List.dropLast_cons_of_ne_nil (List.cons_ne_nil w others)]
      rfl

/-- A tidy state with `KPOS` = 0 is one at the start of a block. -/
theorem keyed_self {s : State} (h : Tidy s) (hkpos : s.kpos = 0) : keyed s s.ivtBytes s.kstrBytes 0 = s := by
  rw [keyed, h.setIvt_ivtBytes_self, State.setKstr, h.fit_kstrBytes]
  have hzero : BitVec.ofNat 4 0 = s.kpos := hkpos.symm
  rw [hzero]

/-- Settles O41. -/
theorem updateKeystreamModes : Obligations.UpdateKeystreamModes := by
  intro units s h hactive hmode hkpos hunits hwhole h64 h32
  have hlive : s.st ≠ .empty := by rw [hactive]; decide
  have hs := h.live_sound hlive
  have htidy := tidy_of_inv h hlive
  obtain ⟨m, hm, hkeeps⟩ : ∃ m, modeClass s.mode = .stream m ∧ keepsKeystream (modeOfStream m) = true := by
    revert hmode
    cases s.mode <;> simp [modeClass, modeOfStream, keepsKeystream]
  have hstream := streamPush_units engine hkeeps (mode_eq_of_stream hm) htidy.le16 hunits hwhole htidy.ivtBytes_length s.kstrBytes
  rw [keyed_self htidy hkpos] at hstream
  have hpush : push engine s units.flatten = _ := (by rw [push, hm] : _ = streamPush engine m s units.flatten).trans hstream
  have hout : (push engine s units.flatten).2.length = units.flatten.length := by
    rw [push, hm]
    exact streamPush_length engine m s _
  rw [exec_eq_execWith, execWith_update_ok engine hactive hs h64 (by rw [hout]; exact h32), hpush]
  by_cases hnone : units = []
  · rw [if_pos hnone, if_pos hnone, keyed, State.setKstr, htidy.fit_kstrBytes]
    rfl
  · rw [if_neg hnone, if_neg hnone]
    rfl

/-- CTR from `KPOS` = 0, up to one block: the output under the first keystream block, in either byte order. -/
theorem ctr_first_block (c : Config) {s : State} (hmode : s.mode = .ctr) (h16 : s.blockLen ≤ 16) (hkpos : s.kpos = 0)
    {input : List Byte} (hle : input.length ≤ s.blockLen) :
    (streamPush c .ctr s input).2 = xorBytes input (s.enc c s.ivtBytes) := by
  rcases Nat.eq_zero_or_pos input.length with hzero | hpos
  · obtain rfl := List.eq_nil_of_length_eq_zero hzero
    rfl
  · have hread := State.ivtBytes_length h16
    have hrefill : refill c .ctr s = keyed s (ctrInc s.ctrBE s.ivtBytes) (s.enc c s.ivtBytes) 0 := by
      have hzero : BitVec.ofNat 4 0 = s.kpos := hkpos.symm
      simp only [refill, ctrRefill, if_pos hkpos, keyed, hzero]
      rfl
    rw [streamPush_unit c rfl hmode h16 ((State.enc_length c s _).trans hread) ((ctrInc_length _ _).trans hread) hrefill hpos hle]

/-- An UPDATE whose response is a `Success` has processed its input. -/
theorem update_of_success {c : Config} {input out : List Byte} {value : Nat} {s t : State}
    (h : execWith c (.update input) s = .next t) (hrsp : t.rspPort = s.rspPort ++ [responsePacket .success out value]) :
    t = afterUpdate c s input ∧ s.total.toNat + input.length ≤ 2 ^ 64 - 1 ∧ (push c s input).2.length ≤ 2 ^ 32 - 1
      ∧ out = (push c s input).2 := by
  cases execWith_answered h with
  | updateUnadmitted | updateOverflows => cases (responsePacket_inj (List.singleton_inj.mp (List.append_cancel_left hrsp))).1
  | updateDone _ hactive hs h64 h32 =>
    rw [update_rspPort] at hrsp
    rw [push_length c hs]
    exact ⟨rfl, h64, h32, (responsePacket_inj (List.singleton_inj.mp (List.append_cancel_left hrsp))).2.symm⟩

/-- Settles O45: the order enters the chain value, and the first block is made before that is used. -/
theorem ctrOrdersAgreeOnFirstBlock : Obligations.CtrOrdersAgreeOnFirstBlock := by
  intro input s t u out hs hactive hmode hkpos hle hlittle hrsp hbig
  have h16 := (configSound_of_sound hs).le16
  have hout : ∀ order : Endian, (push engine { s with ctrBE := order } input).2 = xorBytes input (s.enc engine s.ivtBytes) := by
    intro order
    have hpush : push engine { s with ctrBE := order } input = streamPush engine .ctr { s with ctrBE := order } input := by
      simp only [push, hmode, modeClass]
    rw [hpush]
    exact ctr_first_block engine (s := { s with ctrBE := order }) hmode h16 hkpos hle
  rw [exec_eq_execWith] at hlittle hbig
  obtain ⟨-, h64, h32, rfl⟩ := update_of_success hlittle hrsp
  have hanswer := execWith_update_ok engine (s := { s with ctrBE := .big }) hactive hs h64
    (by rw [hout, ← hout .little]; exact h32)
  rw [hanswer] at hbig
  cases hbig
  rw [update_rspPort, hout, hout]

end Sys2Proof.Proofs
end

section
/-!
FINAL with PKCS7 (spec file 41_data_commands.md, R182, R183, R185; 43_padding.md, R240, R241), and how much UPDATE and FINAL
emit together (40_session_commands.md, R158).
-/

namespace Sys2Proof.Proofs

open Sys2Proof.Machine Sys2Proof.Claims

/-! ### The body of FINAL -/

/-- A `BlockUnit` of a tidy state is the mode's block rule. -/
theorem blockUnit_eq_blockRule (c : Config) {m : BlockMode} {s : State} (hm : modeClass s.mode = .trueBlock m)
    (htidy : Tidy s) (b : List Byte) :
    blockUnit c m s b = (s.setIvt (blockRule c s s.ivtBytes b).1, (blockRule c s s.ivtBytes b).2) := by
  have hunit := blockUnit_setIvt c hm htidy.le16 htidy.ivtBytes_length b
  rwa [htidy.setIvt_ivtBytes_self] at hunit

section Pkcs7

variable {c : Config} {m : BlockMode} {s : State}

theorem flush_encrypt (hm : modeClass s.mode = .trueBlock m) (hpad : s.pad = .pkcs7) (hdir : s.dir = .encrypt) :
    flush c s = .output (blockUnit c m s (pkcs7Pad s.pendBytes s.blockLen)).1
      (blockUnit c m s (pkcs7Pad s.pendBytes s.blockLen)).2 := by
  simp only [flush, hm, hpad, hdir, finalEncPad]

theorem flush_decrypt_ragged (hm : modeClass s.mode = .trueBlock m) (hpad : s.pad = .pkcs7) (hdir : s.dir = .decrypt)
    (hplen : s.plen.toNat ≠ s.blockLen) : flush c s = .error .paramError := by
  simp only [flush, hm, hpad, hdir, finalDecPad, if_pos hplen]

theorem flush_decrypt_bad (hm : modeClass s.mode = .trueBlock m) (hpad : s.pad = .pkcs7) (hdir : s.dir = .decrypt)
    (hplen : s.plen.toNat = s.blockLen) (hbad : pkcs7Unpad (blockUnit c m s s.pendBytes).2 s.blockLen = none) :
    flush c s = .error .decodeError := by
  simp only [flush, hm, hpad, hdir, finalDecPad, if_neg (not_not.mpr hplen), hbad]

theorem flush_decrypt (hm : modeClass s.mode = .trueBlock m) (hpad : s.pad = .pkcs7) (hdir : s.dir = .decrypt)
    (hplen : s.plen.toNat = s.blockLen) {payload : List Byte}
    (hunpad : pkcs7Unpad (blockUnit c m s s.pendBytes).2 s.blockLen = some payload) :
    flush c s = .output (blockUnit c m s s.pendBytes).1 payload := by
  simp only [flush, hm, hpad, hdir, finalDecPad, if_neg (not_not.mpr hplen), hunpad]

end Pkcs7

theorem pkcs7Pad_pendBytes (s : State) :
    pkcs7Pad s.pendBytes s.blockLen
      = s.pend.toList.take s.plen.toNat ++
          List.replicate (s.bs.toNat - s.plen.toNat) (BitVec.ofNat 8 (s.bs.toNat - s.plen.toNat)) := by
  rw [pkcs7Pad, State.pendBytes_length]
  rfl

/-- Settles O49. -/
theorem finalEncryptPads : Obligations.FinalEncryptPads := by
  intro s h hactive hpad hdir
  have hlive : s.st ≠ .empty := by rw [hactive]; decide
  have hs := h.live_sound hlive
  obtain ⟨m, hm⟩ := trueBlock_of_pkcs7 hs hpad
  have hflush := flush_encrypt (c := engine) hm hpad hdir
  rw [blockUnit_eq_blockRule engine hm (tidy_of_inv h hlive), pkcs7Pad_pendBytes] at hflush
  rw [exec_eq_execWith]
  exact (Answered.finalDone _ _ hactive hs hflush).execWith

theorem plen_toNat_of_eq {s : State} (h : s.plen = s.bs) : s.plen.toNat = s.blockLen := congrArg BitVec.toNat h

/-- Settles O50. -/
theorem finalDecryptUnpads : Obligations.FinalDecryptUnpads := by
  intro s payload n h hactive hpad hdir hplen hpos hle hblock
  have hlive : s.st ≠ .empty := by rw [hactive]; decide
  have hs := h.live_sound hlive
  have htidy := tidy_of_inv h hlive
  have h16 := htidy.le16
  obtain ⟨m, hm⟩ := trueBlock_of_pkcs7 hs hpad
  have hfull := plen_toNat_of_eq hplen
  have hunit := blockUnit_eq_blockRule engine hm htidy s.pendBytes
  have hlen : (blockRule engine s s.ivtBytes s.pendBytes).2.length = s.blockLen :=
    (blockRule_length engine hm htidy.ivtBytes_length (s.pendBytes_length.trans hfull)).2
  have hunpad : pkcs7Unpad (blockUnit engine m s s.pendBytes).2 s.blockLen = some payload := by
    rw [hunit]
    exact (pkcs7Unpad_eq_some_iff (by omega) hlen).mpr ⟨n, hpos, hle, hblock⟩
  have hflush := flush_decrypt (c := engine) hm hpad hdir hfull hunpad
  rw [hunit] at hflush
  rw [exec_eq_execWith]
  exact (Answered.finalDone _ _ hactive hs hflush).execWith

/-- Settles O51: where no payload and fill make up the block, `Unpad` finds none. -/
theorem finalBadPaddingErrs : Obligations.FinalBadPaddingErrs := by
  intro s hactive hs hpad hdir hplen hbad
  obtain ⟨m, hm⟩ := trueBlock_of_pkcs7 hs hpad
  have hfull := plen_toNat_of_eq hplen
  have hlen : (blockUnit engine m s s.pendBytes).2.length = s.blockLen :=
    blockUnit_length engine m (s.pendBytes_length.trans hfull) (configSound_of_sound hs).le16
  have hnone : pkcs7Unpad (blockUnit engine m s s.pendBytes).2 s.blockLen = none := by
    rw [Option.eq_none_iff_forall_ne_some]
    intro payload hsome
    obtain ⟨n, hpos, hle, hblock⟩ := eq_append_fill_of_pkcs7Unpad hlen hsome
    rw [blockUnit_output engine hm] at hblock
    exact hbad ⟨payload, n, hpos, hle, hblock⟩
  rw [exec_eq_execWith, ← errorEntry_eq_erroredFrom]
  exact (Answered.finalFails _ hactive hs (flush_decrypt_bad hm hpad hdir hfull hnone)).execWith

/-- Settles O52. -/
theorem finalRaggedCiphertextErrs : Obligations.FinalRaggedCiphertextErrs := by
  intro s hactive hs hpad hdir hplen
  obtain ⟨m, hm⟩ := trueBlock_of_pkcs7 hs hpad
  have hragged : s.plen.toNat ≠ s.blockLen := fun h => hplen (BitVec.eq_of_toNat_eq h)
  rw [exec_eq_execWith, ← errorEntry_eq_erroredFrom]
  exact (Answered.finalFails _ hactive hs (flush_decrypt_ragged hm hpad hdir hragged)).execWith

/-! ### UPDATE and FINAL together -/

/-- A FINAL that ends the message has emitted what its body gives. -/
theorem final_of_finalized {c : Config} {s t : State} (h : execWith c .final s = .next t) (hactive : s.st = .active)
    (ht : t.st = .finalized) :
    ∃ u data, flush c s = .output u data ∧ t.rspPort = s.rspPort ++ [responsePacket .success data 0] := by
  cases execWith_answered h with
  | finalUnadmitted hs => exact absurd hactive hs
  | finalFails => cases ht
  | finalDone u data _ _ hf =>
    refine ⟨u, data, hf, ?_⟩
    obtain ⟨v, rfl⟩ := flush_state hf
    rfl

/-- What FINAL adds to the output: nothing in a stream or without padding, a block when encrypting, part of the one withheld
block when decrypting (R181 to R184). -/
theorem flush_data_length {c : Config} {s t : State} {data : List Byte} (hs : s.sound = true) (hactive : s.st = .active)
    (h : flush c s = .output t data) :
    match modeClass s.mode, s.pad, s.dir with
    | .stream _, _, _ => data.length = 0
    | .trueBlock _, .none, _ => data.length = 0
    | .trueBlock _, .pkcs7, .encrypt => data.length = s.blockLen
    | .trueBlock _, .pkcs7, .decrypt => s.plen.toNat = s.blockLen ∧ data.length ≤ s.blockLen := by
  have hle := flush_data_length_le hs hactive h
  cases hm : modeClass s.mode with
  | stream m =>
    rw [flush_of_stream c hm] at h
    cases h
    rfl
  | trueBlock m =>
    cases hpad : s.pad with
    | none =>
      rw [flush_of_unpadded c hm hpad] at h
      split at h
      · cases h
        rfl
      · cases h
    | pkcs7 =>
      cases hdir : s.dir with
      | encrypt =>
        have hplen := plen_lt_of_sound hs hm
        rw [State.hold_eq, if_neg (by simp [hdir])] at hplen
        rw [flush_encrypt hm hpad hdir] at h
        cases h
        exact blockUnit_length c m (pkcs7Pad_length (by rw [State.pendBytes_length]; omega)) (configSound_of_sound hs).le16
      | decrypt =>
        by_cases hfull : s.plen.toNat = s.blockLen
        · exact ⟨hfull, hle⟩
        · rw [flush_decrypt_ragged hm hpad hdir hfull] at h
          cases h

/-- Settles O53: the two lengths added up, row by row of R156. -/
theorem updateAndFinalStayWithinBound : Obligations.UpdateAndFinalStayWithinBound := by
  intro input out1 out2 s t u h hactive hupdate ht hrsp1 hfinal hu hrsp2
  rw [exec_eq_execWith] at hupdate hfinal
  have hs := h.live_sound (by rw [hactive]; decide)
  obtain ⟨hnext, h64, -, rfl⟩ := update_of_success hupdate hrsp1
  have hinv : Inv engine t := hnext ▸ inv_respond (inv_update h hactive h64) _ _ _
  obtain ⟨hdir, hpad, -, hmode, -, hbs, -⟩ : sameConfiguration s t := hnext ▸ (push_frame engine s input).1
  have hlen : t.blockLen = s.blockLen := congrArg BitVec.toNat hbs.symm
  have hplen : t.plen.toNat = plenAfter s input.length := hnext ▸ push_plen engine hs input
  obtain ⟨v, data, hflush, hrsp⟩ := final_of_finalized hfinal ht hu
  obtain rfl := (responsePacket_inj (List.singleton_inj.mp (List.append_cancel_left (hrsp2.symm.trans hrsp)))).2
  have hdata := flush_data_length (hinv.live_sound (by rw [ht]; decide)) ht hflush
  rw [← hmode, ← hpad, ← hdir, hlen, hplen] at hdata
  rw [push_length engine hs, ← outLen_eq_outLenTable]
  cases hm : modeClass s.mode with
  | stream m =>
    simp only [hm] at hdata
    simp only [outLen, hm]
    omega
  | trueBlock m =>
    have hpos := State.blockLen_pos hs hm
    have hmore := Nat.add_one_mul ((s.plen.toNat + input.length) / s.blockLen) s.blockLen
    cases hp : s.pad with
    | none =>
      simp only [hm, hp] at hdata
      simp only [outLen, hm, hp]
      omega
    | pkcs7 =>
      cases hd : s.dir with
      | encrypt =>
        simp only [hm, hp, hd] at hdata
        simp only [outLen, hm, hp, hd]
        omega
      | decrypt =>
        simp only [hm, hp, hd] at hdata
        obtain ⟨hwithheld, hle⟩ := hdata
        have hblock : s.blockLen ≤ s.plen.toNat + input.length := by
          have hbsn : s.bs.toNat = s.blockLen := rfl
          rw [plenAfter, if_neg (fun hx => (mem_streamModes_iff s.mode).mp hx ((modeClass_eq_trueBlock_iff s.mode).mp ⟨m, hm⟩)),
            if_pos ⟨hd, hp⟩, hbsn] at hwithheld
          split at hwithheld <;> omega
        have hone : 1 ≤ (s.plen.toNat + input.length) / s.blockLen := (Nat.one_le_div_iff hpos).mpr hblock
        have hless := Nat.sub_one_mul ((s.plen.toNat + input.length) / s.blockLen) s.blockLen
        have hfirst : s.blockLen ≤ (s.plen.toNat + input.length) / s.blockLen * s.blockLen := Nat.le_mul_of_pos_left _ hone
        simp only [outLen, hm, hp, hd, reduceCtorEq, or_self, false_implies, and_true]
        omega

end Sys2Proof.Proofs
end

section
/-!
Round trips (spec files 20_memory.md R67, 42_mode_driver.md): a decrypting session undoes an encrypting one, unit by unit and
along an input.
-/

namespace Sys2Proof.Proofs

open Sys2Proof.Machine Sys2Proof.Claims

/-- The same registers in a session of the other direction. -/
def inDir (s : State) (d : Dir) : State := { s with dir := d }

/-! ### Stream-equivalent modes -/

/-- Keystream does not depend on the direction. -/
theorem refill_inDir (c : Config) (m : StreamMode) (s : State) (d : Dir) :
    refill c m (inDir s d) = inDir (refill c m s) d := by
  have hkpos : (inDir s d).kpos = s.kpos := rfl
  cases m with
  | cfb =>
    simp only [refill, cfbRefill, hkpos]
    split <;> rfl
  | ctr =>
    simp only [refill, ctrRefill, hkpos]
    split <;> rfl
  | ofb =>
    simp only [refill, ofbRefill, hkpos]
    split <;> rfl
  | cfb8 | rc4 => rfl

/-- The byte that goes into a feedback register is the ciphertext byte in both directions. -/
theorem emit_roundTrip (m : StreamMode) (s : State) (x : Byte) :
    emit m (inDir s .decrypt) (emit m (inDir s .encrypt) x).2 = (inDir (emit m (inDir s .encrypt) x).1 .decrypt, x) := by
  have hx : x ^^^ s.kstrByte ^^^ s.kstrByte = x := by simp
  have hkstr : ∀ d, (inDir s d).kstrByte = s.kstrByte := fun _ => rfl
  simp only [emit, hkstr, hx]
  split <;> rfl

theorem byteUnit_roundTrip (c : Config) (m : StreamMode) (s : State) (x : Byte) :
    byteUnit c m (inDir s .decrypt) (byteUnit c m (inDir s .encrypt) x).2
      = (inDir (byteUnit c m (inDir s .encrypt) x).1 .decrypt, x) := by
  by_cases hk : keepsKeystream (modeOfStream m) = true
  · rw [byteUnit_eq_emit_refill c hk, byteUnit_eq_emit_refill c hk, refill_inDir, refill_inDir]
    exact emit_roundTrip m (refill c m s) x
  · cases m with
    | cfb | ctr | ofb => exact absurd rfl hk
    | cfb8 =>
      have hx : x ^^^ (s.enc c s.ivtBytes).headD 0#8 ^^^ (s.enc c s.ivtBytes).headD 0#8 = x := by simp
      exact Prod.ext rfl hx
    | rc4 =>
      have hx : x ^^^ (c.streamStep s.alg s.sstate).1 ^^^ (c.streamStep s.alg s.sstate).1 = x := by simp
      exact Prod.ext rfl hx

/-- A unit transform keeps the direction. -/
theorem byteUnit_inDir (c : Config) (m : StreamMode) (s : State) (d : Dir) (x : Byte) :
    (byteUnit c m (inDir s d) x).1 = inDir (byteUnit c m (inDir s d) x).1 d := by
  obtain ⟨i, k, p, t, h⟩ := byteUnit_state c m (inDir s d) x
  rw [h]
  rfl

theorem streamPush_roundTrip (c : Config) (m : StreamMode) (s : State) (input : List Byte) :
    streamPush c m (inDir s .decrypt) (streamPush c m (inDir s .encrypt) input).2
      = (inDir (streamPush c m (inDir s .encrypt) input).1 .decrypt, input) := by
  induction input generalizing s with
  | nil => rfl
  | cons x rest ih =>
    have htwice : ∀ t : State, inDir (inDir t .encrypt) .decrypt = inDir t .decrypt := fun _ => rfl
    simp only [streamPush]
    rw [byteUnit_roundTrip, byteUnit_inDir c m s .encrypt x]
    dsimp only
    rw [htwice, ih]

/-- Settles O59. -/
theorem streamRoundTrip : Obligations.StreamRoundTrip := by
  intro c m s input
  have h := streamPush_roundTrip c m s input
  exact ⟨congrArg Prod.snd h, congrArg Prod.fst h⟩

/-! ### True block modes -/

/-- R67 under each block rule: the chain value moves on alike, and the block comes back. -/
theorem blockRule_roundTrip (c : Config) {m : BlockMode} {s : State} (hm : modeClass s.mode = .trueBlock m) {v b : List Byte}
    (hlen : b.length = v.length) :
    blockRule c (inDir s .decrypt) v (blockRule c (inDir s .encrypt) v b).2
      = ((blockRule c (inDir s .encrypt) v b).1, b) := by
  have hmode := mode_eq_of_trueBlock hm
  have hxor : xorBytes (xorBytes b v) v = b := xorBytes_cancel b v hlen.le
  cases m with
  | ecb => simp [blockRule, inDir, show s.mode = .ecb from hmode]
  | cbc => simp [blockRule, inDir, show s.mode = .cbc from hmode, hxor]
  | xts =>
    have hinner := xorBytes_cancel (encBlock c s.alg s.keySched (xorBytes b v)) v (by simp)
    simp [blockRule, inDir, show s.mode = .xts from hmode, hxor, hinner]

theorem scan_roundTrip (c : Config) {m : BlockMode} {s : State} (hm : modeClass s.mode = .trueBlock m) {k : Nat}
    {blocks : List (List Byte)} (hblocks : ∀ b ∈ blocks, b.length = k) {v : List Byte} (hv : v.length = k) :
    scan (blockRule c (inDir s .decrypt)) v (scan (blockRule c (inDir s .encrypt)) v blocks).2
      = ((scan (blockRule c (inDir s .encrypt)) v blocks).1, blocks) := by
  induction blocks generalizing v with
  | nil => rfl
  | cons b rest ih =>
    obtain ⟨hb, hrest⟩ := List.forall_mem_cons.mp hblocks
    have hnext := (blockRule_length c (s := inDir s .encrypt) hm hv hb).1
    simp only [scan]
    rw [blockRule_roundTrip c hm (hb.trans hv.symm)]
    dsimp only
    rw [ih hrest hnext]

/-- Settles O58: exclusive or with one chain value cancels, and `DecBlock` undoes `EncBlock`. -/
theorem decryptUnitUndoesEncryptUnit : Obligations.DecryptUnitUndoesEncryptUnit := by
  intro c m s b h16 hb
  have hiv : s.ivtBytes.length = b.length := (State.ivtBytes_length h16).trans hb.symm
  have hxor : xorBytes (xorBytes b s.ivtBytes) s.ivtBytes = b := xorBytes_cancel b _ hiv.ge
  cases m with
  | ecb => exact ⟨decBlock_encBlock c s.alg s.keySched b, rfl⟩
  | cbc =>
    refine ⟨?_, rfl⟩
    calc xorBytes (s.dec c (s.enc c (xorBytes b s.ivtBytes))) s.ivtBytes
        = xorBytes (xorBytes b s.ivtBytes) s.ivtBytes := by rw [State.dec_enc]
      _ = b := hxor
  | xts =>
    refine ⟨?_, rfl⟩
    calc xorBytes (s.dec c (xorBytes (xorBytes (s.enc c (xorBytes b s.ivtBytes)) s.ivtBytes) s.ivtBytes)) s.ivtBytes
        = xorBytes (s.dec c (s.enc c (xorBytes b s.ivtBytes))) s.ivtBytes := by
          rw [xorBytes_cancel _ _ (by simp)]
      _ = b := by rw [State.dec_enc, hxor]

end Sys2Proof.Proofs
end

section
/-!
The pseudo-commands (spec file 30_encoding.md, R113) and the message round trip (90_conflicts.md C3): what one successful
message is, apart from the ports, and that decrypting its output gives the input back.
-/

namespace Sys2Proof.Proofs

open Sys2Proof.Machine Sys2Proof.Claims

/-! ### One successful message -/

/-- In a fresh session UPDATE of the input and FINAL succeed and emit `out` together. -/
def MessageDone (c : Config) (s : State) (input out : List Byte) : Prop :=
  s.total.toNat + input.length ≤ 2 ^ 64 - 1 ∧ (push c s input).2.length ≤ 2 ^ 32 - 1
    ∧ ∃ u data, flush c (push c s input).1 = .output u data ∧ out = (push c s input).2 ++ data

/-- The session a successful CREATE makes (R134, R135). -/
def created (c : Config) (a : CreateArgs) (alg : Alg) (s : State) : State :=
  ((s.configure c a alg).loadIV c (createIV a)).respond .success [] 0

theorem inv_created {c : Config} (hc : c.Legal) {a : CreateArgs} {alg : Alg}
    (hchecks : firstFailure (createChecks c a alg) = none) (s : State) : Inv c (created c a alg s) := by
  obtain ⟨hconf, hbs⟩ := configSound_configure (s := s) hc hchecks
  exact inv_respond (inv_loadIV hconf hbs (loadable_createIV hbs hchecks)) _ _ _

/-- CREATE writes every register, so the session depends on the operands only: in the other direction, and after other
traffic on the ports, it differs in `DIR` and the ports. -/
theorem created_decrypt (c : Config) (a : CreateArgs) (alg : Alg) (s t : State) :
    created c { a with dir := .decrypt } alg t
      = atPorts (inDir (created c { a with dir := .encrypt } alg s) .decrypt) t.cmdPort
          (t.rspPort ++ [responsePacket .success [] 0]) := rfl

theorem flush_afterUpdate_iff (c : Config) (s : State) (input data : List Byte) :
    (∃ u, flush c (afterUpdate c s input) = .output u data) ↔ ∃ u, flush c (push c s input).1 = .output u data := by
  rw [afterUpdate_eq_outer, flush_outer]
  cases flush c (push c s input).1 with
  | output t d => simp [Flushed.outer]
  | error status => simp [Flushed.outer]

theorem messageDone_atPorts (c : Config) (s : State) (cmd : List PortEvent) (rsp : List (List Byte)) {input out : List Byte}
    (h : MessageDone c s input out) : MessageDone c (atPorts s cmd rsp) input out := by
  obtain ⟨h64, h32, u, data, hflush, rfl⟩ := h
  have hpush := push_atPorts c s input cmd rsp
  refine ⟨h64, by rw [hpush]; exact h32, atPorts u cmd rsp, data, ?_, by rw [hpush]⟩
  rw [hpush]
  exact flush_atPorts hflush cmd rsp

/-! ### The responses of a message -/

/-- R113: the result is `Success` when every response is, with the outputs in order. -/
theorem messageResult_success_iff (rs : List Response) (out : List Byte) :
    messageResult rs = ⟨0, out⟩ ↔ (∀ r ∈ rs, r.status = 0) ∧ out = (rs.map Response.data).flatten := by
  induction rs generalizing out with
  | nil => simp [messageResult, eq_comm]
  | cons r rest ih =>
    rw [messageResult, List.forall_mem_cons, List.map_cons, List.flatten_cons]
    by_cases hr : r.status = 0
    · rw [if_neg (not_not.mpr hr)]
      dsimp only
      by_cases hrest : (messageResult rest).status = 0
      · obtain ⟨hok, hdata⟩ := (ih (messageResult rest).data).mp (by rw [← hrest])
        rw [if_neg (not_not.mpr hrest), MessageResult.mk.injEq, hdata]
        exact ⟨fun h => ⟨⟨hr, hok⟩, h.2.symm⟩, fun h => ⟨rfl, h.2.symm⟩⟩
      · rw [if_pos hrest]
        refine ⟨fun h => absurd (by rw [h]) hrest, fun h => ?_⟩
        have hih := (ih (rest.map Response.data).flatten).mpr ⟨h.1.2, rfl⟩
        exact absurd (by rw [hih]) hrest
    · rw [if_pos hr]
      simp [hr]

/-- A response with status 0 is a `Success`. -/
theorem issue_success {c : Config} {i : Instr} {s t : State} {r : Response} (h : issue (execWith c) i s = some (t, r))
    (hr : r.status = 0) :
    ∃ value, execWith c i s = .next t ∧ t.rspPort = s.rspPort ++ [responsePacket .success r.data value] := by
  obtain ⟨packet, hexec, hrsp, rfl⟩ := issue_eq_some h
  obtain ⟨status, data, value, hrsp', -, hgood⟩ := answered_oneResponse (execWith_answered hexec)
  obtain rfl : packet = responsePacket status data value := List.singleton_inj.mp (List.append_cancel_left (hrsp.symm.trans hrsp'))
  rw [readResponse_responsePacket status hgood.data_lt hgood.value_lt] at hr ⊢
  obtain rfl : status = .success := by
    cases status with
    | success => rfl
    | paramError | bufferTooSmall | memoryFailure | alignmentError | decodeError | unimplemented | overflow | rngFailure =>
      cases hr
  exact ⟨value, hexec, hrsp⟩

/-- A FINAL whose response is a `Success` has ended the message. -/
theorem final_of_success {c : Config} {out : List Byte} {value : Nat} {s t : State} (h : execWith c .final s = .next t)
    (hrsp : t.rspPort = s.rspPort ++ [responsePacket .success out value]) :
    t.st = .finalized ∧ ∃ u, flush c s = .output u out := by
  have hpacket : ∀ {status : Status} {data : List Byte},
      s.rspPort ++ [responsePacket status data 0] = s.rspPort ++ [responsePacket .success out value] →
        status = .success ∧ data = out :=
    fun h => responsePacket_inj (List.singleton_inj.mp (List.append_cancel_left h))
  cases execWith_answered h with
  | finalUnadmitted => cases (hpacket hrsp).1
  | finalFails status _ _ hf => exact absurd (hpacket hrsp).1 (flush_error_ne_success hf)
  | finalDone u data _ _ hf =>
    refine ⟨rfl, u, ?_⟩
    obtain ⟨v, rfl⟩ := flush_state hf
    rw [← (hpacket hrsp).2]
    exact hf

/-- A CREATE whose response is a `Success` has made the session. -/
theorem create_of_success {c : Config} {a : CreateArgs} {out : List Byte} {value : Nat} {s t : State}
    (h : execWith c (.create a) s = .next t) (hrsp : t.rspPort = s.rspPort ++ [responsePacket .success out value]) :
    ∃ alg, a.alg = .known alg ∧ firstFailure (createChecks c a alg) = none ∧ t = created c a alg s := by
  have hpacket : ∀ {status : Status},
      s.rspPort ++ [responsePacket status [] 0] = s.rspPort ++ [responsePacket .success out value] → status = .success :=
    fun h => (responsePacket_inj (List.singleton_inj.mp (List.append_cancel_left h))).1
  cases execWith_answered h with
  | createUnadmitted | createReserved => cases hpacket hrsp
  | createFails _ alg status _ _ hf =>
    rcases createChecks_status hf with rfl | rfl <;> cases hpacket hrsp
  | createDone _ alg _ ha hf => exact ⟨alg, ha, hf, rfl⟩

/-- RELEASE of a live session ends in `EMPTY` with a response without data. -/
theorem issue_release {c : Config} {s : State} (h : s.st ≠ .empty) :
    issue (execWith c) .release s = some (s.clearRegisters.respond .success [] 0, ⟨0, 0, 0, []⟩) := by
  rw [issue_of_answer (Answered.releaseDone (c := c) h).execWith rfl,
    readResponse_responsePacket .success (by decide) (by decide)]
  rfl

/-! ### ENCRYPT and DECRYPT as messages -/

/-- A pseudo-command ends in `Success` when its CREATE does and the commands after it do (R113). -/
theorem runMessage_success_iff {run : Instr → State → Host.Outcome State Fault Refusal} {a : CreateArgs}
    {input out : List Byte} {s t : State} :
    runMessage run a input s = some (t, ⟨0, out⟩) ↔
      ∃ s1 r1 rs, issue run (.create a) s = some (s1, r1) ∧ r1.status = 0
        ∧ issueAll run [.update input, .final, .release] s1 = some (t, rs) ∧ messageResult rs = ⟨0, out⟩ := by
  unfold runMessage
  constructor
  · intro h
    split at h
    · cases h
    · next s1 r1 hcreate =>
      split at h
      · next hr =>
        simp only [Option.some.injEq, Prod.mk.injEq, MessageResult.mk.injEq] at h
        exact absurd h.2.1 hr
      · next hr =>
        split at h
        · cases h
        · next u rs hall =>
          simp only [Option.some.injEq, Prod.mk.injEq] at h
          obtain ⟨rfl, hresult⟩ := h
          exact ⟨s1, r1, rs, hcreate, not_not.mp hr, hall, hresult⟩
  · rintro ⟨s1, r1, rs, hcreate, hr, hall, hresult⟩
    simp only [hcreate, hr, ne_eq, not_true_eq_false, if_false, hall, hresult]

/-- A pseudo-command that ends in `Success` was one successful message, and left `EMPTY` (R113). -/
theorem messageDone_of_runMessage {c : Config} {a : CreateArgs} {input out : List Byte} {s t : State}
    (h : runMessage (execWith c) a input s = some (t, ⟨0, out⟩)) :
    ∃ alg, a.alg = .known alg ∧ firstFailure (createChecks c a alg) = none
      ∧ MessageDone c (created c a alg s) input out ∧ t.st = .empty := by
  obtain ⟨s1, r1, rs, hcreate, hr1, hall, hresult⟩ := runMessage_success_iff.mp h
  obtain ⟨value, hexec, hrsp⟩ := issue_success hcreate hr1
  obtain ⟨alg, halg, hchecks, rfl⟩ := create_of_success hexec hrsp
  obtain ⟨s2, r2, rs2, hupdate, hall2, rfl⟩ := issueAll_cons_eq_some.mp hall
  obtain ⟨s3, r3, rs3, hfinal, hall3, rfl⟩ := issueAll_cons_eq_some.mp hall2
  obtain ⟨s4, r4, rs4, hrelease, hall4, rfl⟩ := issueAll_cons_eq_some.mp hall3
  obtain ⟨rfl, rfl⟩ : s4 = t ∧ [] = rs4 := by simpa [issueAll_nil] using hall4
  obtain ⟨hok, hout⟩ := (messageResult_success_iff _ _).mp hresult
  simp only [List.forall_mem_cons] at hok
  obtain ⟨hr2, hr3, -, -⟩ := hok
  obtain ⟨value2, hexec2, hrsp2⟩ := issue_success hupdate hr2
  obtain ⟨rfl, h64, h32, hdata2⟩ := update_of_success hexec2 hrsp2
  obtain ⟨value3, hexec3, hrsp3⟩ := issue_success hfinal hr3
  obtain ⟨hended, hflush⟩ := final_of_success hexec3 hrsp3
  obtain ⟨u, hflush⟩ := (flush_afterUpdate_iff c _ input r3.data).mp hflush
  rw [issue_release (by rw [hended]; decide)] at hrelease
  obtain ⟨rfl, rfl⟩ := by simpa using hrelease
  refine ⟨alg, halg, hchecks, ⟨h64, h32, u, r3.data, hflush, ?_⟩, rfl⟩
  rw [hout, ← hdata2]
  simp

/-- One successful message is what the pseudo-command does (R113). -/
theorem runMessage_of_messageDone {c : Config} (hc : c.Legal) {a : CreateArgs} {alg : Alg} {input out : List Byte} {s : State}
    (hempty : s.st = .empty) (halg : a.alg = .known alg) (hchecks : firstFailure (createChecks c a alg) = none)
    (h : MessageDone c (created c a alg s) input out) : ∃ t, runMessage (execWith c) a input s = some (t, ⟨0, out⟩) := by
  obtain ⟨h64, h32, u, data, hflush, rfl⟩ := h
  have hinv := inv_created hc hchecks s
  have hrow : execWith c (.create a) s = .next (created c a alg s) := (Answered.createDone a alg hempty halg hchecks).execWith
  have hcreate := issue_of_answer hrow rfl
  rw [readResponse_responsePacket .success (by decide) (by decide)] at hcreate
  have hupdate := issue_update hinv rfl h64 h32
  have hinv2 := (update_fits hinv rfl h64 h32).2
  have hactive2 : (afterUpdate c (created c a alg s) input).st = .active := afterUpdate_st c _ input
  have hsound2 := hinv2.live_sound (by rw [hactive2]; decide)
  obtain ⟨u2, hflush2⟩ := (flush_afterUpdate_iff c _ input data).mpr ⟨u, hflush⟩
  have hshort := flush_data_length_le hsound2 hactive2 hflush2
  have h16 := (configSound_of_sound hsound2).le16
  have hrsp : (u2.finish.respond .success data 0).rspPort
      = (afterUpdate c (created c a alg s) input).rspPort ++ [responsePacket .success data 0] := by
    obtain ⟨v, rfl⟩ := flush_state hflush2
    rfl
  have hfinal := issue_of_answer (Answered.finalDone u2 data hactive2 hsound2 hflush2).execWith hrsp
  rw [readResponse_responsePacket .success (by omega) (by decide)] at hfinal
  have hrelease := issue_release (c := c) (s := u2.finish.respond .success data 0) (by simp)
  have hall := issueAll_cons_eq_some.mpr ⟨_, _, _, hupdate, issueAll_cons_eq_some.mpr
    ⟨_, _, _, hfinal, issueAll_singleton hrelease, rfl⟩, rfl⟩
  refine ⟨_, runMessage_success_iff.mpr ⟨_, _, _, hcreate, rfl, hall, ?_⟩⟩
  rw [messageResult_success_iff]
  simp [Status.code]

/-! ### Decrypting what was encrypted -/

/-- A sequence is whole blocks and a tail shorter than a block. -/
theorem exists_blocks {k : Nat} (hk : 0 < k) (l : List Byte) :
    ∃ blocks tail, l = List.flatten blocks ++ tail ∧ (∀ b ∈ blocks, b.length = k) ∧ tail.length < k := by
  induction hn : l.length using Nat.strong_induction_on generalizing l with
  | _ n ih =>
    subst hn
    by_cases hshort : l.length < k
    · exact ⟨[], l, rfl, by simp, hshort⟩
    · obtain ⟨blocks, tail, hsplit, hblocks, htail⟩ := ih (l.drop k).length (by rw [List.length_drop]; omega) (l.drop k) rfl
      refine ⟨l.take k :: blocks, tail, ?_, List.forall_mem_cons.mpr ⟨List.length_take_of_le (by omega), hblocks⟩, htail⟩
      rw [List.flatten_cons, List.append_assoc, ← hsplit, List.take_append_drop]

section RoundTrip

variable {c : Config} {s : State} {plain cipher : List Byte}

/-- A stream keeps the length, and FINAL adds nothing. -/
theorem messageDone_stream {m : StreamMode} (hm : modeClass s.mode = .stream m)
    (h : MessageDone c (inDir s .encrypt) plain cipher) : MessageDone c (inDir s .decrypt) cipher plain := by
  have hpush : ∀ (d : Dir) (xs : List Byte), push c (inDir s d) xs = streamPush c m (inDir s d) xs :=
    fun d xs => by rw [push, show modeClass (inDir s d).mode = .stream m from hm]
  have hflush : ∀ (d : Dir) (xs : List Byte), flush c (push c (inDir s d) xs).1 = .output (push c (inDir s d) xs).1 [] :=
    fun d xs => flush_of_stream c (m := m) (by rw [push_mode]; exact hm)
  obtain ⟨h64, h32, u, data, hf, rfl⟩ := h
  rw [hflush] at hf
  cases hf
  have hlen : (push c (inDir s .encrypt) plain).2.length = plain.length := by rw [hpush, streamPush_length]
  have hback : push c (inDir s .decrypt) ((push c (inDir s .encrypt) plain).2 ++ [])
      = (inDir (push c (inDir s .encrypt) plain).1 .decrypt, plain) := by
    rw [List.append_nil, hpush, hpush, streamPush_roundTrip]
  refine ⟨?_, ?_, _, [], hflush _ _, ?_⟩
  · rw [List.append_nil, hlen]
    exact h64
  · rw [hback, ← hlen]
    exact h32
  · rw [hback, List.append_nil]

/-- A session before its first UPDATE, sound in both directions. -/
structure Fresh (s : State) : Prop where
  encrypt_sound : (inDir s .encrypt).sound = true
  decrypt_sound : (inDir s .decrypt).sound = true
  tidy : Tidy s
  plen : s.plen = 0
  total : s.total = 0

theorem fresh_created (hc : c.Legal) {a : CreateArgs} {alg : Alg} (hchecks : firstFailure (createChecks c a alg) = none)
    (s : State) : Fresh (created c a alg s) where
  encrypt_sound := (inv_created (a := { a with dir := .encrypt }) hc hchecks s).live_sound (by simp [created])
  decrypt_sound := (inv_created (a := { a with dir := .decrypt }) hc hchecks s).live_sound (by simp [created])
  tidy := tidy_of_inv (inv_created hc hchecks s) (by simp [created])
  plen := rfl
  total := rfl

namespace Fresh

theorem sound (h : Fresh s) (d : Dir) : (inDir s d).sound = true := by
  cases d with
  | encrypt => exact h.encrypt_sound
  | decrypt => exact h.decrypt_sound

theorem tidy_inDir (h : Fresh s) (d : Dir) : Tidy (inDir s d) :=
  ⟨h.tidy.le16, h.tidy.pos, h.tidy.ivt, h.tidy.kstr, h.tidy.kpos⟩

theorem pendBytes_nil (h : Fresh s) (d : Dir) : (inDir s d).pendBytes = [] := by
  rw [← List.length_eq_zero_iff, State.pendBytes_length]
  exact congrArg BitVec.toNat h.plen

/-- The first UPDATE of a session, on blocks and what is kept back behind them. -/
theorem push_blocks (h : Fresh s) (d : Dir) {m : BlockMode} (hm : modeClass s.mode = .trueBlock m)
    {blocks : List (List Byte)} {kept : List Byte} (hblocks : ∀ b ∈ blocks, b.length = s.blockLen)
    (hhold : (inDir s d).hold ≤ kept.length) (hkept : kept.length < s.blockLen + (inDir s d).hold) :
    push c (inDir s d) (blocks.flatten ++ kept)
      = (((inDir s d).setIvt (scan (blockRule c (inDir s d)) s.ivtBytes blocks).1).setPend kept,
        (scan (blockRule c (inDir s d)) s.ivtBytes blocks).2.flatten) :=
  Proofs.push_blocks c (h.sound d) (h.tidy_inDir d) hm (by rw [h.pendBytes_nil]; rfl) hblocks (.inr hhold) hkept

/-- Encrypting emits the ciphertext `ct` of the whole blocks `body` and keeps the tail; decrypting `ct`, and what is kept
behind it, emits `body` and ends under the same chain value. -/
theorem push_roundTrip (h : Fresh s) {m : BlockMode} (hm : modeClass s.mode = .trueBlock m) (plain : List Byte) :
    ∃ body tail v ct : List Byte, plain = body ++ tail ∧ tail.length < s.blockLen ∧ v.length = s.blockLen
      ∧ ct.length = body.length ∧ push c (inDir s .encrypt) plain = (((inDir s .encrypt).setIvt v).setPend tail, ct)
      ∧ ∀ kept : List Byte, (inDir s .decrypt).hold ≤ kept.length → kept.length < s.blockLen + (inDir s .decrypt).hold →
          push c (inDir s .decrypt) (ct ++ kept) = (((inDir s .decrypt).setIvt v).setPend kept, body) := by
  have hiv : s.ivtBytes.length = s.blockLen := h.tidy.ivtBytes_length
  have hhold : (inDir s .encrypt).hold = 0 := by
    rw [State.hold_eq, if_neg]
    rintro ⟨hdir, -⟩
    cases hdir
  have hpos : 0 < s.blockLen := State.blockLen_pos (s := inDir s .encrypt) (h.sound .encrypt) hm
  obtain ⟨blocks, tail, rfl, hblocks, htail⟩ := exists_blocks hpos plain
  obtain ⟨hv, hys⟩ := scan_blockRule_length c (s := inDir s .encrypt) hm hblocks hiv
  refine ⟨_, tail, _, _, rfl, htail, hv, scan_blockRule_flatten_length c (s := inDir s .encrypt) hm hblocks hiv,
    h.push_blocks .encrypt hm hblocks (by omega) (by omega), fun kept hmin hmax => ?_⟩
  have hpush := h.push_blocks (c := c) .decrypt hm hys hmin hmax
  rwa [scan_roundTrip c hm hblocks hiv] at hpush

end Fresh

/-- The last block under the chain value `v`, with anything pending. -/
theorem blockUnit_setIvt_setPend (c : Config) {m : BlockMode} (hm : modeClass s.mode = .trueBlock m) (h16 : s.blockLen ≤ 16)
    {v : List Byte} (hv : v.length = s.blockLen) (w b : List Byte) :
    (blockUnit c m ((s.setIvt v).setPend w) b).2 = (blockRule c s v b).2 := by
  rw [blockUnit_setPend, blockUnit_setIvt c hm h16 hv]

/-- Without padding FINAL has accepted whole blocks only (R184). -/
theorem messageDone_unpadded {m : BlockMode} (hfresh : Fresh s) (hm : modeClass s.mode = .trueBlock m) (hpad : s.pad = .none)
    (h : MessageDone c (inDir s .encrypt) plain cipher) : MessageDone c (inDir s .decrypt) cipher plain := by
  have h16 := hfresh.tidy.le16
  have hhold : (inDir s .decrypt).hold = 0 := by
    rw [State.hold_eq, if_neg]
    rintro ⟨-, hp⟩
    exact absurd (hpad.symm.trans hp) (by decide)
  have hflush : ∀ d v w, flush c (((inDir s d).setIvt v).setPend w)
      = if (((inDir s d).setIvt v).setPend w).plen = 0 then .output (((inDir s d).setIvt v).setPend w) []
        else .error .paramError := fun d v w => flush_of_unpadded c (m := m) hm hpad
  obtain ⟨-, h32, u, data, hfinal, rfl⟩ := h
  obtain ⟨body, tail, v, ct, rfl, htail, -, hlen, hencrypt, hdecrypt⟩ := hfresh.push_roundTrip (c := c) hm plain
  rw [hencrypt] at h32 hfinal ⊢
  rw [hflush] at hfinal
  split at hfinal
  case isFalse => cases hfinal
  next hwhole =>
    cases hfinal
    obtain rfl : tail = [] := by
      have hplen := setPend_plen (s := (inDir s .encrypt).setIvt v) (v := tail) (by omega)
      rw [hwhole] at hplen
      exact List.length_eq_zero_iff.mp hplen.symm
    have hback := hdecrypt [] (by omega) (by omega)
    dsimp only at h32 ⊢
    refine ⟨?_, ?_, ((inDir s .decrypt).setIvt v).setPend [], [], ?_, ?_⟩
    · rw [show (inDir s .decrypt).total = 0 from hfresh.total, List.append_nil]
      change 0 + _ ≤ _
      omega
    · rw [hback, ← hlen]
      exact h32
    · rw [hback, hflush]
      exact if_pos rfl
    · rw [hback]

/-- With PKCS7 the last block is the tail and its fill, and decrypting withholds it until FINAL (R174, R182, R183). -/
theorem messageDone_pkcs7 {m : BlockMode} (hfresh : Fresh s) (hm : modeClass s.mode = .trueBlock m) (hpad : s.pad = .pkcs7)
    (h : MessageDone c (inDir s .encrypt) plain cipher) : MessageDone c (inDir s .decrypt) cipher plain := by
  have h16 := hfresh.tidy.le16
  have hhold : (inDir s .decrypt).hold = s.blockLen := by
    rw [State.hold_eq, if_pos ⟨rfl, hpad⟩]
    rfl
  obtain ⟨-, h32, u, last, hfinal, rfl⟩ := h
  obtain ⟨body, tail, v, ct, rfl, htail, hv, hlen, hencrypt, hdecrypt⟩ := hfresh.push_roundTrip (c := c) hm plain
  have hfill : (pkcs7Pad tail s.blockLen).length = s.blockLen := pkcs7Pad_length htail.le
  have hunit : ∀ d w b, (blockUnit c m (((inDir s d).setIvt v).setPend w) b).2 = (blockRule c (inDir s d) v b).2 :=
    fun d w b => blockUnit_setIvt_setPend c (s := inDir s d) hm h16 hv w b
  have hlast : last = (blockRule c (inDir s .encrypt) v (pkcs7Pad tail s.blockLen)).2 := by
    have hflush := flush_encrypt (c := c) (m := m) (s := ((inDir s .encrypt).setIvt v).setPend tail) hm hpad rfl
    rw [hencrypt, hflush] at hfinal
    injection hfinal with _ hdata
    rw [State.setPend_pendBytes (by omega), hunit] at hdata
    exact hdata.symm
  have hlastLen : last.length = s.blockLen := by
    rw [hlast]
    exact (blockRule_length c (s := inDir s .encrypt) hm hv hfill).2
  have hback := hdecrypt last (by omega) (by omega)
  have hunpad : pkcs7Unpad (blockUnit c m (((inDir s .decrypt).setIvt v).setPend last)
      (((inDir s .decrypt).setIvt v).setPend last).pendBytes).2 s.blockLen = some tail := by
    rw [State.setPend_pendBytes (by omega), hunit, hlast, blockRule_roundTrip c hm (hfill.trans hv.symm),
      pkcs7Unpad_pkcs7Pad (by omega) htail]
  have hflush := flush_decrypt (m := m) (s := ((inDir s .decrypt).setIvt v).setPend last) hm hpad rfl
    ((setPend_plen (by omega)).trans hlastLen) hunpad
  rw [hencrypt] at h32 ⊢
  dsimp only at h32 ⊢
  refine ⟨?_, ?_, _, tail, by rw [hback]; exact hflush, by rw [hback]⟩
  · rw [show (inDir s .decrypt).total = 0 from hfresh.total, List.length_append]
    change 0 + _ ≤ _
    omega
  · rw [hback, ← hlen]
    exact h32

theorem messageDone_decrypt (hfresh : Fresh s) (h : MessageDone c (inDir s .encrypt) plain cipher) :
    MessageDone c (inDir s .decrypt) cipher plain := by
  cases hm : modeClass s.mode with
  | stream m => exact messageDone_stream hm h
  | trueBlock m =>
    cases hpad : s.pad with
    | none => exact messageDone_unpadded hfresh hm hpad h
    | pkcs7 => exact messageDone_pkcs7 hfresh hm hpad h

end RoundTrip

/-- Settles O60: the session DECRYPT creates is ENCRYPT's in the other direction. -/
theorem messageRoundTrip : Obligations.MessageRoundTrip := by
  intro c a plain cipher s t hc _ hencrypt
  obtain ⟨alg, halg, hchecks, hdone, hempty⟩ := messageDone_of_runMessage hencrypt
  have hback := messageDone_decrypt (fresh_created hc hchecks s) hdone
  have hdecrypt : MessageDone c (created c { a with dir := .decrypt } alg t) cipher plain := by
    rw [created_decrypt c a alg s t]
    exact messageDone_atPorts c _ _ _ hback
  exact runMessage_of_messageDone hc hempty halg hchecks hdecrypt

end Sys2Proof.Proofs
end
